-- ==== Sys2Proof/Word.lean ====
section
/-! DEFINITION. The widths of the block's data (00_scope.md R7, R8): nothing but names for bit vectors. -/

namespace Sys2Proof

/-- A 32-bit word: commands, data words, result words, and the words of F (00_scope.md R7). -/
abbrev Word := BitVec 32

/-- A byte (00_scope.md R8). -/
abbrev Byte := BitVec 8

/-- The 64-bit byte counter (10_state.md R26). -/
abbrev Counter := BitVec 64

end Sys2Proof
end

