-- ==== Sys2Proof/Config.lean ====
section
/-! DEFINITION. The fixed parameters of 00_scope.md R7. "None is left open to the model", so there is no free value:
the only open quantities (`cmd_latency`, `host_base_address`, `reset_source`) bear on no rule and are left out (log 8). -/

namespace Sys2Proof.Config

/-- Block size BB, in bytes (R7). -/
abbrev blockBytes : Nat := 64

/-- The smallest digest length, in bytes (R7). -/
abbrev minDigestBytes : Nat := 1

/-- The largest digest length, in bytes (R7). -/
abbrev maxDigestBytes : Nat := 32

/-- The largest key length, in bytes (R7). -/
abbrev maxKeyBytes : Nat := 32

/-- The most bytes one WRITE carries (R7). -/
abbrev maxWriteBytes : Nat := 4

/-- The rounds of F (R7). -/
abbrev rounds : Nat := 10

end Sys2Proof.Config
end

