-- ==== Sys2Proof/Syntax.lean ====
section
/-! DEFINITION. The six commands (30_encoding.md R71), one constructor per row of spec/opcode_table.json, each with the
fields its format carries at their encoded widths (R73 to R76). The data word `wdata` is no field of the command word: it
comes beside it in the transaction (R70). -/

namespace Sys2Proof

/-- A decoded command word. -/
inductive Instr where
  /-- INIT, format P (R73): digest length NN = cmd[13:8] and key length KK = cmd[21:16]. -/
  | init (nn kk : BitVec 6)
  /-- KEYW, format I (R74): key word index IDX = cmd[10:8]. -/
  | keyw (idx : BitVec 3)
  /-- WRITE, format I (R74): byte count N = cmd[10:8]. -/
  | write (n : BitVec 3)
  /-- SUM, format N (R72). -/
  | sum
  /-- RESET, format N (R72). -/
  | reset
  /-- READ, format A (R75): register address ADDR = cmd[15:8]. -/
  | read (addr : BitVec 8)
deriving DecidableEq, Repr

end Sys2Proof
end

