-- ==== Sys2Proof/WellFormed.lean ====
section
/-! DEFINITION. Which commands the encoding admits (30_encoding.md R77, R79, "extra condition"): WRITE carries at most four
bytes, READ names one of the ten defined addresses. INIT's range check is no encoding check (R77), so every INIT is
well formed. -/

namespace Sys2Proof

/-- WRITE's extra condition `cmd[10:8] <= 4` (R79). -/
def writeCountOk (n : BitVec 3) : Bool := decide (n.toNat ≤ Config.maxWriteBytes)

/-- READ's extra condition: ADDR in {0x00, 0x01, 0x10..0x17} (R79; 10_state.md R36). -/
def readAddressOk (addr : BitVec 8) : Bool :=
  addr == 0x00#8 || addr == 0x01#8 || (decide (0x10 ≤ addr.toNat) && decide (addr.toNat ≤ 0x17))

/-- The command is one the decoder of R78 can answer. -/
def Instr.wellFormed : Instr → Bool
  | .init _ _ => true
  | .keyw _ => true
  | .write n => writeCountOk n
  | .sum => true
  | .reset => true
  | .read addr => readAddressOk addr

end Sys2Proof
end

