-- ==== Sys2Proof/Decode.lean ====
section
/-! DEFINITION. The decoder of 30_encoding.md R78, total on every 32-bit word, and after it the encoder, written from the
formats of R72 to R75 and the match values of R79. -/

namespace Sys2Proof

/-- Why a word is ILLEGAL: the four cases of 60_exceptions.md R211. The block reports all four as IllegalCommand; the names
are the model's (log 14). -/
inductive DecodeError where
  /-- (a) OPC is 0x0 or one of 0x7 to 0xF. -/
  | unusedOpcode
  /-- (b) A reserved bit of the command's format is 1. -/
  | reservedBitSet
  /-- (c) The command is WRITE with N in 5..7. -/
  | writeCountTooLarge
  /-- (d) The command is READ with ADDR outside the ten defined addresses. -/
  | undefinedReadAddress
deriving DecidableEq, Repr

/-- OPC = cmd[3:0] in every format (R71). -/
def opcodeOf (cmd : Word) : BitVec 4 := cmd.extractLsb' 0 4

/-- NN = cmd[13:8] (R76). -/
def nnField (cmd : Word) : BitVec 6 := cmd.extractLsb' 8 6

/-- KK = cmd[21:16] (R76). -/
def kkField (cmd : Word) : BitVec 6 := cmd.extractLsb' 16 6

/-- IDX of KEYW and N of WRITE, both cmd[10:8] (R76). -/
def countField (cmd : Word) : BitVec 3 := cmd.extractLsb' 8 3

/-- ADDR = cmd[15:8] (R76). -/
def addrField (cmd : Word) : BitVec 8 := cmd.extractLsb' 8 8

/-- The reserved bits of format P (INIT) in R78. -/
def reservedP : Word := 0xFFC0C0F0#32

/-- The reserved bits of format I (KEYW, WRITE) in R78. -/
def reservedI : Word := 0xFFFFF8F0#32

/-- The reserved bits of format N (SUM, RESET) in R78. -/
def reservedN : Word := 0xFFFFFFF0#32

/-- The reserved bits of format A (READ) in R78. -/
def reservedA : Word := 0xFFFF00F0#32

/-- R78's `case 0x1`. -/
def decodeInit (cmd : Word) : Except DecodeError Instr :=
  if cmd &&& reservedP ≠ 0 then .error .reservedBitSet else .ok (.init (nnField cmd) (kkField cmd))

/-- R78's `case 0x2`. -/
def decodeKeyw (cmd : Word) : Except DecodeError Instr :=
  if cmd &&& reservedI ≠ 0 then .error .reservedBitSet else .ok (.keyw (countField cmd))

/-- R78's `case 0x3`. -/
def decodeWrite (cmd : Word) : Except DecodeError Instr :=
  if cmd &&& reservedI ≠ 0 then .error .reservedBitSet
  else if writeCountOk (countField cmd) then .ok (.write (countField cmd))
  else .error .writeCountTooLarge

/-- R78's `case 0x4`. -/
def decodeSum (cmd : Word) : Except DecodeError Instr :=
  if cmd &&& reservedN ≠ 0 then .error .reservedBitSet else .ok .sum

/-- R78's `case 0x5`. -/
def decodeReset (cmd : Word) : Except DecodeError Instr :=
  if cmd &&& reservedN ≠ 0 then .error .reservedBitSet else .ok .reset

/-- R78's `case 0x6`. -/
def decodeRead (cmd : Word) : Except DecodeError Instr :=
  if cmd &&& reservedA ≠ 0 then .error .reservedBitSet
  else if readAddressOk (addrField cmd) then .ok (.read (addrField cmd))
  else .error .undefinedReadAddress

/-- The decoder (R78): a total function of the command word alone. -/
def decode (cmd : Word) : Except DecodeError Instr :=
  match (opcodeOf cmd).toNat with
  | 0x1 => decodeInit cmd
  | 0x2 => decodeKeyw cmd
  | 0x3 => decodeWrite cmd
  | 0x4 => decodeSum cmd
  | 0x5 => decodeReset cmd
  | 0x6 => decodeRead cmd
  | _ => .error .unusedOpcode

/-- The word of a command: R79's match value with the fields at the positions of R73 to R75, every other bit 0. -/
def encode : Instr → Word
  | .init nn kk => 0x00000001#32 ||| (nn.setWidth 32 <<< 8) ||| (kk.setWidth 32 <<< 16)
  | .keyw idx => 0x00000002#32 ||| (idx.setWidth 32 <<< 8)
  | .write n => 0x00000003#32 ||| (n.setWidth 32 <<< 8)
  | .sum => 0x00000004#32
  | .reset => 0x00000005#32
  | .read addr => 0x00000006#32 ||| (addr.setWidth 32 <<< 8)

/-- The command word the opcode table numbers as the low `nbits` bits of `w` (bit 0 least significant, which is R8's own
numbering); every command is one 32-bit word (R70), so bits from 32 up have no place in it (log 13). -/
def commandOfBits (nbits w : Nat) : Word := BitVec.ofNat 32 (w % 2 ^ nbits)

/-- What the decoder reads from the table's word. -/
def decodeTableWord (nbits w : Nat) : Option Instr :=
  match decode (commandOfBits nbits w) with
  | .ok i => some i
  | .error _ => none

end Sys2Proof
end

