-- ==== Sys2Proof/Machine/State.lean ====
section
/-! DEFINITION. The state: the thirteen elements of 10_state.md R20 as `Block`, and around them the transaction port by
which the host and the block meet (00_scope.md R13) as `State`. All of it is plain data. -/

namespace Sys2Proof.Machine

/-- The state of the block: exactly the elements of 10_state.md R20, under the spec's names and widths. -/
structure Block where
  /-- CONFIGURED: a context exists. -/
  configured : Bool
  /-- NN: digest length of the context, in bytes. -/
  nn : BitVec 6
  /-- KK: key length of the context, in bytes. -/
  kk : BitVec 6
  /-- KSTAGE[0..31]: the staging key. -/
  kstage : Vector Byte 32
  /-- CKEY[0..31]: the context key. -/
  ckey : Vector Byte 32
  /-- h[0..7]: the chaining state. -/
  h : Vector Word 8
  /-- t: bytes compressed so far with final = 0. -/
  t : Counter
  /-- buf[0..63]: the pending-input buffer. -/
  buf : Vector Byte 64
  /-- OFFSET: the number of valid bytes in buf, 0..64 in 7 bits. -/
  offset : BitVec 7
  /-- DIGEST[0..7]: the result of the last SUM. -/
  digest : Vector Word 8
  /-- DIGEST_VALID: DIGEST is the digest of the current stream. -/
  digestValid : Bool
  /-- ERR: result code of the last transaction other than a successful READ. -/
  err : BitVec 4
  /-- ERR_STICKY: some transaction has failed since hardware reset. -/
  errSticky : Bool
deriving DecidableEq, Repr

/-- What the host can do to the block: the two agents' only meeting points (00_scope.md R13, 70_reset_and_hazards.md R240). -/
inductive HostEvent where
  /-- One transaction: a command word with its data word (00_scope.md R13). -/
  | transaction (cmd wdata : Word)
  /-- Hardware reset, "an external event, not a command" (70_reset_and_hazards.md R240). -/
  | hardwareReset
deriving DecidableEq, Repr

/-- The machine: the block and its port. The three port fields are the model's own (log 1, 3, 4). -/
structure State extends Block where
  /-- What the host does next, oldest first (log 1). -/
  inbox : List HostEvent
  /-- wdata of the transaction being executed (log 4). -/
  wdata : Word
  /-- The rdata words returned so far, oldest first (70_reset_and_hazards.md R251; log 3). -/
  results : List Word
deriving DecidableEq, Repr

/-- Reasons to stop with a fault: there are none, "the block has no fault that stops it, no stuck state and no hang"
(60_exceptions.md R226; log 6). Nothing can raise one, so this is safe as far as the spec is true of the hardware. -/
inductive Fault where
deriving DecidableEq, Repr

/-- Reasons to refuse an instruction. -/
inductive Refusal where
  /-- Raised only by an arm of `exec` whose instruction has no meaning yet; every instruction has one, so nothing raises
  it. Safe: the machine stops where the block would go on. -/
  | notModelled (mnemonic : String)
deriving DecidableEq, Repr

/-- The three outcomes of a step over this machine's types. -/
abbrev Outcome := Host.Outcome State Fault Refusal

/-- Every element of the block right after hardware reset (10_state.md R37). -/
def Block.reset : Block where
  configured := false
  nn := 0
  kk := 0
  kstage := Vector.replicate 32 0
  ckey := Vector.replicate 32 0
  h := Vector.replicate 8 0
  t := 0
  buf := Vector.replicate 64 0
  offset := 0
  digest := Vector.replicate 8 0
  digestValid := false
  err := 0
  errSticky := false

/-- The machine right after hardware reset: R37's values, and a port on which the host has done nothing yet (log 1, 3, 4). -/
def State.reset : State where
  toBlock := Block.reset
  inbox := []
  wdata := 0
  results := []

end Sys2Proof.Machine
end

