-- ==== Sys2Proof/Machine/Operands.lean ====
section
/-! DEFINITION. Operand forms: byte lanes and byte order (00_scope.md R10, 20_memory.md R51), the index a KEYW byte goes to,
the bytes a WRITE carries, and the register a READ address names. -/

namespace Sys2Proof.Machine

/-- `lane(w, j) = w[8j+7 : 8j]` (00_scope.md R10). -/
def lane (w : Word) (j : Nat) : Byte := w.extractLsb' (8 * j) 8

/-- `LE32(b0, b1, b2, b3) = b0 | (b1 << 8) | (b2 << 16) | (b3 << 24)` (00_scope.md R10). -/
def le32 (b0 b1 b2 b3 : Byte) : Word :=
  b0.setWidth 32 ||| (b1.setWidth 32 <<< 8) ||| (b2.setWidth 32 <<< 16) ||| (b3.setWidth 32 <<< 24)

/-- The stream bytes of WRITE: lanes 0..N-1 of wdata, lane 0 first (30_encoding.md R76, 20_memory.md R51(c)). -/
def streamBytes (n : BitVec 3) (wdata : Word) : List Byte := (List.range n.toNat).map (lane wdata)

/-- KSTAGE with word IDX replaced: lane j of wdata becomes key byte 4·IDX + j (20_memory.md R51(d)). -/
def stageKeyWord (kstage : Vector Byte 32) (idx : BitVec 3) (wdata : Word) : Vector Byte 32 :=
  kstage.mapIdx fun k byte => if k / 4 = idx.toNat then lane wdata (k % 4) else byte

/-- The key INIT latches: KSTAGE below KK, zero from KK on (41_construct.md R133). -/
def latchedKey (kk : BitVec 6) (kstage : Vector Byte 32) : Vector Byte 32 :=
  kstage.mapIdx fun j byte => if j < kk.toNat then byte else 0

/-- A register of the read space (10_state.md R36). -/
inductive ReadRegister where
  | status
  | config
  | digest (i : Fin 8)
deriving DecidableEq, Repr

/-- The register at a read address: 0x00, 0x01, 0x10 to 0x17; no other address is defined (10_state.md R36, 20_memory.md R57). -/
def readRegisterAt (addr : BitVec 8) : Option ReadRegister :=
  if addr = 0x00#8 then some .status
  else if addr = 0x01#8 then some .config
  else if h : 0x10 ≤ addr.toNat ∧ addr.toNat < 0x18 then some (.digest ⟨addr.toNat - 0x10, by omega⟩)
  else none

end Sys2Proof.Machine
end

