-- ==== Sys2Proof/Machine/Compress.lean ====
section
/-! DEFINITION. The compression core F (40_compression_core.md R100 to R115), a pure total function. Its constants and the
order inside G are the spec's rules, which the spec marks as general knowledge confirmed by its known answers (log 11). -/

namespace Sys2Proof.Machine

/-- `rotr32(x, n) = (x >> n) | (x << (32 - n))`, for 1 <= n <= 31 (00_scope.md R9). -/
def rotr32 (x : Word) (n : Nat) : Word := (x >>> n) ||| (x <<< (32 - n))

/-- The initialization vector (40_compression_core.md R102). -/
def iv : Vector Word 8 := #v[
  0x6A09E667, 0xBB67AE85, 0x3C6EF372, 0xA54FF53A,
  0x510E527F, 0x9B05688C, 0x1F83D9AB, 0x5BE0CD19]

/-- The message schedule, row r for round r (40_compression_core.md R103). -/
def sigma : Vector (Vector (Fin 16) 16) Config.rounds := #v[
  #v[0, 1, 2, 3, 4, 5, 6, 7, 8, 9, 10, 11, 12, 13, 14, 15],
  #v[14, 10, 4, 8, 9, 15, 13, 6, 1, 12, 0, 2, 11, 7, 5, 3],
  #v[11, 8, 12, 0, 5, 2, 15, 13, 10, 14, 3, 6, 7, 1, 9, 4],
  #v[7, 9, 3, 1, 13, 12, 11, 14, 2, 6, 5, 10, 4, 0, 15, 8],
  #v[9, 0, 5, 7, 2, 4, 10, 15, 14, 1, 11, 12, 6, 8, 3, 13],
  #v[2, 12, 6, 10, 0, 11, 8, 3, 4, 13, 7, 5, 15, 14, 1, 9],
  #v[12, 5, 1, 15, 14, 13, 4, 10, 0, 7, 6, 3, 9, 2, 8, 11],
  #v[13, 11, 7, 14, 12, 1, 3, 9, 5, 0, 15, 4, 8, 6, 2, 10],
  #v[6, 15, 14, 9, 11, 3, 0, 8, 12, 2, 13, 7, 1, 4, 10, 5],
  #v[10, 2, 8, 4, 7, 6, 1, 5, 15, 11, 9, 14, 3, 12, 13, 0]]

/-- The mixing operation G(v, a, b, c, d, x, y): each line sees the writes of the lines above it (40_compression_core.md R104). -/
def mix (v : Vector Word 16) (a b c d : Fin 16) (x y : Word) : Vector Word 16 :=
  let v := v.set a (v[a] + v[b] + x)
  let v := v.set d (rotr32 (v[d] ^^^ v[a]) 16)
  let v := v.set c (v[c] + v[d])
  let v := v.set b (rotr32 (v[b] ^^^ v[c]) 12)
  let v := v.set a (v[a] + v[b] + y)
  let v := v.set d (rotr32 (v[d] ^^^ v[a]) 8)
  let v := v.set c (v[c] + v[d])
  v.set b (rotr32 (v[b] ^^^ v[c]) 7)

/-- One round with schedule row `s`: four column mixes, then four diagonal mixes (40_compression_core.md R105). -/
def mixRound (m : Vector Word 16) (v : Vector Word 16) (s : Vector (Fin 16) 16) : Vector Word 16 :=
  let v := mix v 0 4 8 12 m[s[0]] m[s[1]]
  let v := mix v 1 5 9 13 m[s[2]] m[s[3]]
  let v := mix v 2 6 10 14 m[s[4]] m[s[5]]
  let v := mix v 3 7 11 15 m[s[6]] m[s[7]]
  let v := mix v 0 5 10 15 m[s[8]] m[s[9]]
  let v := mix v 1 6 11 12 m[s[10]] m[s[11]]
  let v := mix v 2 7 8 13 m[s[12]] m[s[13]]
  mix v 3 4 9 14 m[s[14]] m[s[15]]

/-- Message words: `m[i] = LE32(block[4i], ..., block[4i+3])` (40_compression_core.md R106). -/
def messageWords (block : Vector Byte 64) : Vector Word 16 :=
  Vector.ofFn fun i =>
    le32 (block[4 * i.val]'(by omega)) (block[4 * i.val + 1]'(by omega)) (block[4 * i.val + 2]'(by omega))
      (block[4 * i.val + 3]'(by omega))

/-- The working vector before the rounds (40_compression_core.md R107): h, then IV with t[31:0] in word 12, t[63:32] in
word 13 and, for the final block, all ones in word 14. -/
def workingVector (h : Vector Word 8) (t : Counter) (final : Bool) : Vector Word 16 :=
  #v[h[0], h[1], h[2], h[3], h[4], h[5], h[6], h[7],
    iv[0], iv[1], iv[2], iv[3],
    iv[4] ^^^ t.extractLsb' 0 32, iv[5] ^^^ t.extractLsb' 32 32,
    if final then iv[6] ^^^ 0xFFFFFFFF#32 else iv[6], iv[7]]

/-- The ten rounds, in order (40_compression_core.md R108). -/
def mixRounds (m : Vector Word 16) (v : Vector Word 16) : Vector Word 16 := sigma.toList.foldl (mixRound m) v

/-- F, complete (40_compression_core.md R110): the output word is `h[i] ^ v[i] ^ v[i+8]` (R109). Irreducible, so that no
proof about a command evaluates F by accident; the kernel evaluates it all the same. -/
@[irreducible] def compress (h : Vector Word 8) (block : Vector Byte 64) (t : Counter) (final : Bool) : Vector Word 8 :=
  let v := mixRounds (messageWords block) (workingVector h t final)
  #v[h[0] ^^^ v[0] ^^^ v[8], h[1] ^^^ v[1] ^^^ v[9], h[2] ^^^ v[2] ^^^ v[10], h[3] ^^^ v[3] ^^^ v[11],
    h[4] ^^^ v[4] ^^^ v[12], h[5] ^^^ v[5] ^^^ v[13], h[6] ^^^ v[6] ^^^ v[14], h[7] ^^^ v[7] ^^^ v[15]]

end Sys2Proof.Machine
end

