-- ==== Sys2Proof/Machine/Flags.lean ====
section
/-! DEFINITION. The error codes (60_exceptions.md R210) and the two status views STATUS (10_state.md R30) and CONFIG (R32).
The flags themselves are elements of the block; which command sets or clears each (R31) is in the meanings. -/

namespace Sys2Proof.Machine

/-- The errors a command can raise (00_scope.md R12). -/
inductive ErrorKind where
  /-- Raised by INIT: NN outside [1,32] or KK outside [0,32]. -/
  | invalidParameter
  /-- Raised by any command word that does not decode. -/
  | illegalCommand
  /-- Raised by WRITE, SUM and RESET while CONFIGURED = 0. -/
  | notConfigured
deriving DecidableEq, Repr

/-- The code of an error in STATUS.ERR (60_exceptions.md R210). -/
def ErrorKind.code : ErrorKind → BitVec 4
  | .invalidParameter => 1
  | .illegalCommand => 2
  | .notConfigured => 3

/-- Result code OK (60_exceptions.md R210). -/
def okCode : BitVec 4 := 0

/-- `STATUS = CONFIGURED | (DIGEST_VALID << 1) | (ERR_STICKY << 2) | (ERR << 4)` (10_state.md R30). -/
def statusWord (b : Block) : Word :=
  (BitVec.ofBool b.configured).setWidth 32 ||| ((BitVec.ofBool b.digestValid).setWidth 32 <<< 1) |||
    ((BitVec.ofBool b.errSticky).setWidth 32 <<< 2) ||| (b.err.setWidth 32 <<< 4)

/-- `CONFIG = NN | (KK << 8)` (10_state.md R32). -/
def configWord (b : Block) : Word := b.nn.setWidth 32 ||| (b.kk.setWidth 32 <<< 8)

end Sys2Proof.Machine
end

