-- ==== Sys2Proof/Machine/Ops.lean ====
section
/-! DEFINITION. The operations the meanings share: how a transaction ends (success, error, register read), how a context
starts and is discarded, how a byte is absorbed, and how a digest is made. The first group acts on the machine, the rest on
the block's elements. There is no trap to enter or return from (60_exceptions.md R219, R220): recording an error
(`raiseError`) is the whole of the spec's error entry. -/

namespace Sys2Proof.Machine

/-- The transaction ends with the block in state `b` and the result word `rdata` returned (00_scope.md R13). -/
def State.answer (s : State) (b : Block) (rdata : Word) : State :=
  { s with toBlock := b, results := s.results ++ [rdata] }

/-- `ERR <- 0`, with which every successful command but READ ends (60_exceptions.md R213). -/
def Block.recordOk (b : Block) : Block := { b with err := okCode }

/-- `ERR <- code(E); ERR_STICKY <- 1` (60_exceptions.md R213). -/
def Block.recordError (b : Block) (e : ErrorKind) : Block := { b with err := e.code, errSticky := true }

/-- The end of every successful command but READ: the block it leaves, `ERR <- 0`, `rdata <- STATUS` (60_exceptions.md R213,
45_read.md R202). -/
def succeed (b : Block) (s : State) : Outcome := .next (s.answer b.recordOk (statusWord b.recordOk))

/-- The error-recording action: `ERR <- code(E); ERR_STICKY <- 1; rdata <- STATUS`, after which the next transaction runs
normally (60_exceptions.md R213). `b` is the block as the failing command leaves it. -/
def raiseError (e : ErrorKind) (b : Block) (s : State) : Outcome :=
  .next (s.answer (b.recordError e) (statusWord (b.recordError e)))

/-- The configuration check that WRITE, SUM and RESET make first (60_exceptions.md R212, R215): with no context the command
raises NotConfigured and does nothing else. -/
def whenConfigured (run : State → Outcome) (s : State) : Outcome :=
  if s.configured then run s else raiseError .notConfigured s.toBlock s

/-- The parameter word `P0 = 0x01010000 ^ (KK << 8) ^ NN` (41_construct.md R132). -/
def parameterWord (nn kk : BitVec 6) : Word := 0x01010000#32 ^^^ (kk.setWidth 32 <<< 8) ^^^ nn.setWidth 32

/-- The initial chaining state: IV with P0 folded into word 0 (41_construct.md R132). -/
def initialChaining (nn kk : BitVec 6) : Vector Word 8 := iv.set 0 (iv[0] ^^^ parameterWord nn kk)

/-- The key zero-padded to one block (41_construct.md R135). -/
def keyBlock (ckey : Vector Byte 32) : Vector Byte 64 := (ckey ++ Vector.replicate 32 (0 : Byte)).cast rfl

/-- ContextInit, the post-construction state shared by INIT and RESET (41_construct.md R135). A key waits in the buffer as a
full pending block; F is not called (R136). -/
def contextInit (b : Block) : Block :=
  { b with
    h := initialChaining b.nn b.kk
    t := 0
    buf := if b.kk = 0 then Vector.replicate 64 0 else keyBlock b.ckey
    offset := if b.kk = 0 then 0 else 64
    digest := Vector.replicate 8 0
    digestValid := false }

/-- InitFail, what an INIT that fails the range check leaves: no context, KSTAGE unchanged (41_construct.md R134). -/
def initFail (b : Block) : Block :=
  { b with
    configured := false
    nn := 0
    kk := 0
    ckey := Vector.replicate 32 0
    h := Vector.replicate 8 0
    t := 0
    buf := Vector.replicate 64 0
    offset := 0
    digest := Vector.replicate 8 0
    digestValid := false }

/-- The parameters INIT latches before ContextInit (41_construct.md R133). -/
def latchParameters (nn kk : BitVec 6) (b : Block) : Block :=
  { b with configured := true, nn := nn, kk := kk, ckey := latchedKey kk b.kstage }

/-- The full buffer compressed as a block that is not final: `t <- t + 64; h <- F(h, buf, t, 0)`, F seeing the new t, and
the buffer emptied (42_write.md R151). -/
def compressFull (b : Block) : Block :=
  { b with
    t := b.t + 64
    h := compress b.h b.buf (b.t + 64) false
    buf := Vector.replicate 64 0
    offset := 0 }

/-- `buf[OFFSET] <- b; OFFSET <- OFFSET + 1` (42_write.md R151). OFFSET is below 64 here in every reachable state; an OFFSET
above 64, which no run reaches, stores nothing (log 9). -/
def storeByte (byte : Byte) (b : Block) : Block :=
  { b with buf := b.buf.setIfInBounds b.offset.toNat byte, offset := b.offset + 1 }

/-- Absorb(b): one stream byte (42_write.md R151). A full buffer is compressed first, since a byte follows it. -/
def absorb (b : Block) (byte : Byte) : Block :=
  storeByte byte (if b.offset = 64 then compressFull b else b)

/-- Stream bytes absorbed in order. -/
def absorbAll (b : Block) (bytes : List Byte) : Block := bytes.foldl absorb b

/-- The final block: the pending bytes, padded with zeros (43_finalization.md R170, `fb`). -/
def finalBlock (b : Block) : Vector Byte 64 := b.buf.mapIdx fun k byte => if k < b.offset.toNat then byte else 0

/-- "total bytes processed": t + OFFSET, modulo 2^64 (43_finalization.md R170, `tf`; R174). -/
def totalBytes (b : Block) : Counter := b.t + b.offset.setWidth 64

/-- The final state, made on a copy of the stream (43_finalization.md R170, `hf`). -/
def finalState (b : Block) : Vector Word 8 := compress b.h (finalBlock b) (totalBytes b) true

/-- Byte k of the digest, k = 4i + j, from word i of the final state; zero at and beyond NN (43_finalization.md R170, `d(k)`; R171). -/
def digestByte (nn : BitVec 6) (i : Nat) (word : Word) (j : Nat) : Byte := if 4 * i + j < nn.toNat then lane word j else 0

/-- The DIGEST registers of a final state: DIGEST[i] holds digest bytes 4i to 4i + 3 (43_finalization.md R170). -/
def digestWords (hf : Vector Word 8) (nn : BitVec 6) : Vector Word 8 :=
  hf.mapIdx fun i word => le32 (digestByte nn i word 0) (digestByte nn i word 1) (digestByte nn i word 2) (digestByte nn i word 3)

/-- The digest of the stream as it stands, as DIGEST registers (43_finalization.md R170). -/
def streamDigest (b : Block) : Vector Word 8 := digestWords (finalState b) b.nn

/-- Hardware reset: every element of the block at R37's value (70_reset_and_hazards.md R240). The port is the host's: what
it has yet to do and what it has already been told stand (log 5). -/
def hardwareReset (s : State) : State := { s with toBlock := Block.reset }

end Sys2Proof.Machine
end

