-- ==== Sys2Proof/Machine/Construct.lean ====
section
/-! DEFINITION. Construct: KEYW and INIT (41_construct.md). -/

namespace Sys2Proof.Machine

/-- The block after KEYW: four key bytes in the staging key (41_construct.md R131). -/
def keywBlock (idx : BitVec 3) (wdata : Word) (b : Block) : Block :=
  { b with kstage := stageKeyWord b.kstage idx wdata }

/-- KEYW, whether or not a context exists (41_construct.md R131). -/
def execKeyw (idx : BitVec 3) (s : State) : Outcome := succeed (keywBlock idx s.wdata s.toBlock) s

/-- INIT's range check (41_construct.md R133): NN in [1,32] and KK in [0,32]. -/
def initLengthsOk (nn kk : BitVec 6) : Bool :=
  decide (Config.minDigestBytes ≤ nn.toNat) && decide (nn.toNat ≤ Config.maxDigestBytes) &&
    decide (kk.toNat ≤ Config.maxKeyBytes)

/-- INIT: check the lengths, latch them and the key, and start the context; on a failed check discard the context and raise
InvalidParameter (41_construct.md R133, R134). -/
def execInit (nn kk : BitVec 6) (s : State) : Outcome :=
  if initLengthsOk nn kk then succeed (contextInit (latchParameters nn kk s.toBlock)) s
  else raiseError .invalidParameter (initFail s.toBlock) s

end Sys2Proof.Machine
end

