-- ==== Sys2Proof/Machine/Finalize.lean ====
section
/-! DEFINITION. SUM (43_finalization.md). -/

namespace Sys2Proof.Machine

/-- The block after SUM: DIGEST and DIGEST_VALID written, the stream as it was (43_finalization.md R170, R172). -/
def sumBlock (b : Block) : Block := { b with digest := streamDigest b, digestValid := true }

/-- SUM (43_finalization.md R170). -/
def execSum (s : State) : Outcome := whenConfigured (fun s => succeed (sumBlock s.toBlock) s) s

end Sys2Proof.Machine
end

