-- ==== Sys2Proof/Machine/Read.lean ====
section
/-! DEFINITION. READ (45_read.md). -/

namespace Sys2Proof.Machine

/-- The value of a register of the read space (45_read.md R200). -/
def readRegister (b : Block) : ReadRegister → Word
  | .status => statusWord b
  | .config => configWord b
  | .digest i => b.digest[i]

/-- READ (45_read.md R200): the register is returned and no element is written, ERR among them. An undefined address is
IllegalCommand; the decoder answers no such READ, so that arm is for the ill-formed term alone (log 12). -/
def execRead (addr : BitVec 8) (s : State) : Outcome :=
  match readRegisterAt addr with
  | some r => .next (s.answer s.toBlock (readRegister s.toBlock r))
  | none => raiseError .illegalCommand s.toBlock s

end Sys2Proof.Machine
end

