-- ==== Sys2Proof/Machine/Restart.lean ====
section
/-! DEFINITION. RESET, the command that restores the post-construction state (44_reset.md); not hardware reset. -/

namespace Sys2Proof.Machine

/-- RESET (44_reset.md R190). -/
def execReset (s : State) : Outcome := whenConfigured (fun s => succeed (contextInit s.toBlock) s) s

end Sys2Proof.Machine
end

