-- ==== Sys2Proof/Machine/Write.lean ====
section
/-! DEFINITION. WRITE (42_write.md). -/

namespace Sys2Proof.Machine

/-- `if N >= 1: DIGEST_VALID <- 0` (42_write.md R151). -/
def clearDigestValidIfBytes (n : BitVec 3) (b : Block) : Block :=
  { b with digestValid := b.digestValid && decide (n = 0) }

/-- The block after WRITE: N bytes absorbed in lane order (42_write.md R151). -/
def writeBlock (n : BitVec 3) (wdata : Word) (b : Block) : Block :=
  clearDigestValidIfBytes n (absorbAll b (streamBytes n wdata))

/-- WRITE with its operands good: the configuration check, then the bytes. -/
def writeStream (n : BitVec 3) (s : State) : Outcome :=
  whenConfigured (fun s => succeed (writeBlock n s.wdata s.toBlock) s) s

/-- WRITE (42_write.md R151). N in 5..7 is IllegalCommand, before the configuration check (60_exceptions.md R215); the decoder
answers no such WRITE, so that arm is for the ill-formed term alone (log 12). -/
def execWrite (n : BitVec 3) (s : State) : Outcome :=
  if n.toNat ≤ Config.maxWriteBytes then writeStream n s else raiseError .illegalCommand s.toBlock s

end Sys2Proof.Machine
end

