-- ==== Sys2Proof/Machine/Dispatch.lean ====
section
/-! DEFINITION. One arm per command. -/

namespace Sys2Proof.Machine

def exec (i : Instr) (s : State) : Host.Outcome State Fault Refusal :=
  match i with
  | .init nn kk => Sys2Proof.Machine.execInit nn kk s
  | .keyw idx => Sys2Proof.Machine.execKeyw idx s
  | .write n => Sys2Proof.Machine.execWrite n s
  | .sum => Sys2Proof.Machine.execSum s
  | .reset => Sys2Proof.Machine.execReset s
  | .read addr => Sys2Proof.Machine.execRead addr s

end Sys2Proof.Machine
end

