-- ==== Sys2Proof/Machine/Transaction.lean ====
section
/-! DEFINITION. How the block takes what the host does: a transaction is decoded first, before any state is read
(30_encoding.md R78, 60_exceptions.md R215), and runs as one indivisible step (20_memory.md R55). -/

namespace Sys2Proof.Machine

/-- The transaction taken off the inbox, its data word on the port. -/
def State.accept (s : State) (wdata : Word) (rest : List HostEvent) : State := { s with inbox := rest, wdata := wdata }

/-- One command word: its command runs, or the word is ILLEGAL and raises IllegalCommand (30_encoding.md R78, 60_exceptions.md R211). -/
def runCommand (cmd : Word) (s : State) : Outcome :=
  match decode cmd with
  | .ok i => exec i s
  | .error _ => raiseError .illegalCommand s.toBlock s

/-- One event from the host. -/
def takeEvent (e : HostEvent) (rest : List HostEvent) (s : State) : Outcome :=
  match e with
  | .transaction cmd wdata => runCommand cmd (s.accept wdata rest)
  | .hardwareReset => .next (hardwareReset { s with inbox := rest })

/-- The host issues one command word, with data word zero, as the next thing the block sees (log 13). -/
def State.issue (s : State) (cmd : Word) : State := { s with inbox := .transaction cmd 0 :: s.inbox }

end Sys2Proof.Machine
end

