-- ==== Sys2Proof/Machine/Step.lean ====
section
/-! DEFINITION. The step: the oldest event of the inbox, or, when the host has done nothing, the state held as it is
(60_exceptions.md R225; log 2). -/

namespace Sys2Proof.Machine

/-- One step of the machine (00_scope.md R13). -/
def step (s : State) : Host.Outcome State Fault Refusal :=
  match s.inbox with
  | [] => .next s
  | e :: rest => takeEvent e rest s

/-- The state in which the table's word is the very next command (log 1, 13). -/
def State.withFetchWord (s : State) (nbits w : Nat) : State := s.issue (commandOfBits nbits w)

end Sys2Proof.Machine
end

