-- ==== Sys2Proof/Safety.lean ====
section
/-! DEFINITION. The words claims are stated in: the invariants of the block's reachable states, what a host can see of the
block, what two states share, and what one step took off the inbox. -/

namespace Sys2Proof.Machine

/-! ## Invariants of reachable states -/

/-- OFFSET ranges over 0..64 (42_write.md R150). -/
abbrev Block.OffsetBounded (b : Block) : Prop := b.offset.toNat ≤ 64

/-- The bytes buf[OFFSET..63] are zero (10_state.md R24). -/
abbrev Block.BufferTailZero (b : Block) : Prop := ∀ k : Fin 64, b.offset.toNat ≤ k.val → b.buf[k] = 0

/-- While CONFIGURED = 1, NN is 1..32 and KK is 0..32 (10_state.md R20). -/
abbrev Block.LengthsLegal (b : Block) : Prop :=
  b.configured = true → 1 ≤ b.nn.toNat ∧ b.nn.toNat ≤ 32 ∧ b.kk.toNat ≤ 32

/-- CKEY bytes at index >= KK are zero (10_state.md R20). -/
abbrev Block.KeyTailZero (b : Block) : Prop := ∀ j : Fin 32, b.kk.toNat ≤ j.val → b.ckey[j] = 0

/-- While CONFIGURED = 0 every context element is zero (10_state.md R29), and so are DIGEST and DIGEST_VALID (R34). -/
abbrev Block.ClearedUnlessConfigured (b : Block) : Prop :=
  b.configured = false →
    b.nn = 0 ∧ b.kk = 0 ∧ (∀ j : Fin 32, b.ckey[j] = 0) ∧ (∀ i : Fin 8, b.h[i] = 0) ∧ b.t = 0 ∧
      (∀ k : Fin 64, b.buf[k] = 0) ∧ b.offset = 0 ∧ (∀ i : Fin 8, b.digest[i] = 0) ∧ b.digestValid = false

/-- DIGEST bytes at index >= NN read as zero (70_reset_and_hazards.md R247). -/
abbrev Block.DigestTailZero (b : Block) : Prop :=
  ∀ k : Fin 32, b.nn.toNat ≤ k.val → lane (b.digest[k.val / 4]'(by omega)) (k.val % 4) = 0

/-- ERR is a code 0..3, and an ERR other than OK has left ERR_STICKY set (10_state.md R35, 60_exceptions.md R210). -/
abbrev Block.ErrorRecordLegal (b : Block) : Prop := b.err.toNat ≤ 3 ∧ (b.err ≠ 0 → b.errSticky = true)

/-- t is a multiple of 64 (10_state.md R27(a)). -/
abbrev Block.CounterAligned (b : Block) : Prop := b.t.toNat % 64 = 0

/-- If t > 0 then OFFSET >= 1 (10_state.md R27(b)). -/
abbrev Block.CompressedMeansPending (b : Block) : Prop := b.t ≠ 0 → b.offset ≠ 0

/-- The invariant of the block: all of the above. -/
structure Block.Inv (b : Block) : Prop where
  offsetBounded : b.OffsetBounded
  bufferTailZero : b.BufferTailZero
  lengthsLegal : b.LengthsLegal
  keyTailZero : b.KeyTailZero
  clearedUnlessConfigured : b.ClearedUnlessConfigured
  digestTailZero : b.DigestTailZero
  errorRecordLegal : b.ErrorRecordLegal
  counterAligned : b.CounterAligned
  compressedMeansPending : b.CompressedMeansPending

/-- DIGEST_VALID = 1 means that DIGEST is the digest a SUM would make of the stream as it stands (10_state.md R34). -/
abbrev Block.DigestCurrent (b : Block) : Prop := b.digestValid = true → b.digest = streamDigest b

/-- With a key, the key block has been counted: t + OFFSET >= 64 (10_state.md R27(c)). -/
abbrev Block.KeyBlockCounted (b : Block) : Prop := b.kk ≠ 0 → 64 ≤ b.t.toNat + b.offset.toNat

/-! ## What states share -/

/-- The elements of the running stream: (h, t, buf, OFFSET) (42_write.md R153). -/
structure Block.SameStream (a b : Block) : Prop where
  h : a.h = b.h
  t : a.t = b.t
  buf : a.buf = b.buf
  offset : a.offset = b.offset

/-- The parameters a context is built with: CONFIGURED, NN, KK and CKEY (10_state.md R23). -/
structure Block.SameParameters (a b : Block) : Prop where
  configured : a.configured = b.configured
  nn : a.nn = b.nn
  kk : a.kk = b.kk
  ckey : a.ckey = b.ckey

/-- DIGEST and DIGEST_VALID. -/
structure Block.SameDigest (a b : Block) : Prop where
  digest : a.digest = b.digest
  digestValid : a.digestValid = b.digestValid

/-- Every element but the error record ERR and ERR_STICKY (60_exceptions.md R213). -/
structure Block.SameButErrorRecord (a b : Block) : Prop where
  params : a.SameParameters b
  kstage : a.kstage = b.kstage
  stream : a.SameStream b
  digest : a.SameDigest b

/-- What READ can show of a block (45_read.md R200): the elements behind STATUS, CONFIG and DIGEST, and no other. -/
structure Block.SameVisible (a b : Block) : Prop where
  configured : a.configured = b.configured
  nn : a.nn = b.nn
  kk : a.kk = b.kk
  digest : a.SameDigest b
  err : a.err = b.err
  errSticky : a.errSticky = b.errSticky

/-- `t` is `s` after a command that returned `rdata`: the port's inbox and data word stand and one result word is added. -/
structure Returned (s t : State) (rdata : Word) : Prop where
  results : t.results = s.results ++ [rdata]
  inbox : t.inbox = s.inbox
  wdata : t.wdata = s.wdata

/-! ## Runs of commands -/

/-- The commands run one after another, each with its data word; the first outcome that is no next state ends the run. -/
def runCommands : List (Instr × Word) → State → Outcome
  | [], s => .next s
  | (i, w) :: rest, s =>
    match exec i { s with wdata := w } with
    | .next t => runCommands rest t
    | .fault r => .fault r
    | .refused r => .refused r

/-- The commands that leave the context in place: WRITE, SUM, KEYW and READ, well formed (42_write.md R153). -/
def streaming : Instr → Bool
  | .init _ _ => false
  | .keyw _ => true
  | .write n => writeCountOk n
  | .sum => true
  | .reset => false
  | .read addr => readAddressOk addr

/-- The bytes one command adds to the stream: WRITE's lanes, nothing for the others. -/
def bytesOf : Instr × Word → List Byte
  | (.write n, w) => streamBytes n w
  | _ => []

/-- The bytes a list of commands adds to the stream, in order. -/
def writtenBytes (cs : List (Instr × Word)) : List Byte := cs.flatMap bytesOf

end Sys2Proof.Machine
end

