-- ==== Sys2Proof/Certificates/Slice0/Obligations.lean ====
section
/-! DEFINITION. The statements for the provers. Where a statement speaks of the inbox, of `wdata` or of `results`, it speaks
of the model's transaction port (log 1, 3, 4): `results` grows by the rdata word of 00_scope.md R13. -/

open Sys2Proof Sys2Proof.Machine

/-! ## Reset and the step -/

/-- 10_state.md R37: the value of every element after hardware reset, and the two views of it. -/
def Obligations.HardwareResetValues : Prop :=
  State.reset.configured = false ∧ State.reset.nn = 0 ∧ State.reset.kk = 0 ∧
    (∀ j : Fin 32, State.reset.kstage[j] = 0x00#8) ∧ (∀ j : Fin 32, State.reset.ckey[j] = 0x00#8) ∧
    (∀ i : Fin 8, State.reset.h[i] = 0x00000000#32) ∧ State.reset.t = 0 ∧ (∀ k : Fin 64, State.reset.buf[k] = 0x00#8) ∧
    State.reset.offset = 0 ∧ (∀ i : Fin 8, State.reset.digest[i] = 0x00000000#32) ∧ State.reset.digestValid = false ∧
    State.reset.err = 0 ∧ State.reset.errSticky = false ∧
    statusWord State.reset.toBlock = 0x00000000#32 ∧ configWord State.reset.toBlock = 0x00000000#32

/-- 70_reset_and_hazards.md, section 1: a hardware reset leaves every element at its reset value, whatever it was, and the
next event is taken from there. That it falls between transactions is the model's choice (log 5). -/
def Obligations.HardwareResetEventResetsEveryElement : Prop :=
  ∀ (s : State) (rest : List HostEvent), s.inbox = .hardwareReset :: rest →
    ∃ t, step s = .next t ∧ t.toBlock = State.reset.toBlock ∧ t.inbox = rest ∧ t.results = s.results

/-- A step runs the decoded command: with a transaction at the head of the inbox whose word decodes to `i`, the step is `exec`
of `i` on the state with the transaction taken off and its data word on the port (log 1, 4). -/
def Obligations.StepRunsTheDecodedCommand : Prop :=
  ∀ (s : State) (cmd wdata : Word) (rest : List HostEvent) (i : Instr),
    s.inbox = .transaction cmd wdata :: rest → decode cmd = .ok i →
      i.wellFormed = true ∧ step s = exec i { s with inbox := rest, wdata := wdata }

/-- Between transactions the block holds its state (60_exceptions.md section 3, power states): the model's reading of a step
with nothing to do (log 2). -/
def Obligations.IdleBlockHoldsItsState : Prop := ∀ s : State, s.inbox = [] → step s = .next s

/-- 00_scope.md section 5, the step is total: no state stops the machine, and a transaction is taken off the inbox and
answered with exactly one result word. -/
def Obligations.EveryTransactionIsAnsweredOnce : Prop :=
  (∀ s : State, ∃ t, step s = .next t) ∧
    ∀ (s : State) (cmd wdata : Word) (rest : List HostEvent), s.inbox = .transaction cmd wdata :: rest →
      ∃ t r, step s = .next t ∧ t.inbox = rest ∧ t.results = s.results ++ [r]

/-! ## Encoding -/

/-- Decoding an encoded well-formed command gives it back, with every operand at every value. -/
def Obligations.DecodeOfEncode : Prop := ∀ i : Instr, i.wellFormed = true → decode (encode i) = .ok i

/-- A word that decodes is the encoding of what it decodes to, which is well formed: each command has exactly one word. -/
def Obligations.EncodeOfDecode : Prop :=
  ∀ (cmd : Word) (i : Instr), decode cmd = .ok i → i.wellFormed = true ∧ encode i = cmd

/-- 30_encoding.md R79: a word is an instance of a command exactly when `(cmd & mask) == match` and the extra condition
holds. -/
def Obligations.DecodeFollowsMatchAndMask : Prop :=
  ∀ cmd : Word,
    ((∃ nn kk, decode cmd = .ok (.init nn kk)) ↔ cmd &&& 0xFFC0C0FF#32 = 0x00000001#32) ∧
    ((∃ idx, decode cmd = .ok (.keyw idx)) ↔ cmd &&& 0xFFFFF8FF#32 = 0x00000002#32) ∧
    ((∃ n, decode cmd = .ok (.write n)) ↔ cmd &&& 0xFFFFF8FF#32 = 0x00000003#32 ∧ cmd.toNat / 2 ^ 8 % 2 ^ 3 ≤ 4) ∧
    (decode cmd = .ok .sum ↔ cmd &&& 0xFFFFFFFF#32 = 0x00000004#32) ∧
    (decode cmd = .ok .reset ↔ cmd &&& 0xFFFFFFFF#32 = 0x00000005#32) ∧
    ((∃ addr, decode cmd = .ok (.read addr)) ↔
      cmd &&& 0xFFFF00FF#32 = 0x00000006#32 ∧
        (cmd.toNat / 2 ^ 8 % 2 ^ 8 = 0x00 ∨ cmd.toNat / 2 ^ 8 % 2 ^ 8 = 0x01 ∨
          (0x10 ≤ cmd.toNat / 2 ^ 8 % 2 ^ 8 ∧ cmd.toNat / 2 ^ 8 % 2 ^ 8 ≤ 0x17)))

/-- 30_encoding.md section 2, operand assembly: every field is the unsigned number its bits of the word spell. -/
def Obligations.DecodedFieldsAreTheirBits : Prop :=
  ∀ cmd : Word,
    (∀ nn kk, decode cmd = .ok (.init nn kk) →
      nn.toNat = cmd.toNat / 2 ^ 8 % 2 ^ 6 ∧ kk.toNat = cmd.toNat / 2 ^ 16 % 2 ^ 6) ∧
    (∀ idx, decode cmd = .ok (.keyw idx) → idx.toNat = cmd.toNat / 2 ^ 8 % 2 ^ 3) ∧
    (∀ n, decode cmd = .ok (.write n) → n.toNat = cmd.toNat / 2 ^ 8 % 2 ^ 3) ∧
    (∀ addr, decode cmd = .ok (.read addr) → addr.toNat = cmd.toNat / 2 ^ 8 % 2 ^ 8)

/-- 30_encoding.md section 3, the table of encoding examples. -/
def Obligations.EncodingExamples : Prop :=
  decode 0x00002001#32 = .ok (.init 32 0) ∧ decode 0x00001001#32 = .ok (.init 16 0) ∧
    decode 0x00202001#32 = .ok (.init 32 32) ∧ decode 0x00201001#32 = .ok (.init 16 32) ∧
    decode 0x00002101#32 = .ok (.init 33 0) ∧ decode 0x00000001#32 = .ok (.init 0 0) ∧
    decode 0x00000002#32 = .ok (.keyw 0) ∧ decode 0x00000702#32 = .ok (.keyw 7) ∧
    decode 0x00000003#32 = .ok (.write 0) ∧ decode 0x00000103#32 = .ok (.write 1) ∧
    decode 0x00000303#32 = .ok (.write 3) ∧ decode 0x00000403#32 = .ok (.write 4) ∧
    decode 0x00000004#32 = .ok .sum ∧ decode 0x00000005#32 = .ok .reset ∧
    decode 0x00000006#32 = .ok (.read 0x00) ∧ decode 0x00000106#32 = .ok (.read 0x01) ∧
    decode 0x00001006#32 = .ok (.read 0x10) ∧ decode 0x00001706#32 = .ok (.read 0x17)

/-- 60_exceptions.md R211: a word is illegal exactly in its cases (a) to (d); an illegal word, in whatever state, changes
nothing but ERR, ERR_STICKY and rdata; and a word that decodes never raises IllegalCommand (after a successful READ an ERR of
2 is the one that stood before it). -/
def Obligations.IllegalCommandExactlyWhen : Prop :=
  (∀ cmd : Word,
    (∃ e, decode cmd = .error e) ↔
      (cmd.toNat % 16 = 0x0 ∨ 0x7 ≤ cmd.toNat % 16) ∨
      ((cmd.toNat % 16 = 0x1 ∧ cmd &&& 0xFFC0C0F0#32 ≠ 0) ∨
        ((cmd.toNat % 16 = 0x2 ∨ cmd.toNat % 16 = 0x3) ∧ cmd &&& 0xFFFFF8F0#32 ≠ 0) ∨
        ((cmd.toNat % 16 = 0x4 ∨ cmd.toNat % 16 = 0x5) ∧ cmd &&& 0xFFFFFFF0#32 ≠ 0) ∨
        (cmd.toNat % 16 = 0x6 ∧ cmd &&& 0xFFFF00F0#32 ≠ 0)) ∨
      (cmd.toNat % 16 = 0x3 ∧ 5 ≤ cmd.toNat / 2 ^ 8 % 2 ^ 3) ∨
      (cmd.toNat % 16 = 0x6 ∧
        ¬ (cmd.toNat / 2 ^ 8 % 2 ^ 8 = 0x00 ∨ cmd.toNat / 2 ^ 8 % 2 ^ 8 = 0x01 ∨
          (0x10 ≤ cmd.toNat / 2 ^ 8 % 2 ^ 8 ∧ cmd.toNat / 2 ^ 8 % 2 ^ 8 ≤ 0x17)))) ∧
  (∀ (s : State) (cmd wdata : Word) (rest : List HostEvent) (e : DecodeError),
    s.inbox = .transaction cmd wdata :: rest → decode cmd = .error e →
      ∃ t, step s = .next t ∧ t.err = 2 ∧ t.errSticky = true ∧ t.toBlock.SameButErrorRecord s.toBlock ∧
        t.results = s.results ++ [statusWord t.toBlock] ∧ t.inbox = rest) ∧
  ∀ (s t : State) (cmd wdata : Word) (rest : List HostEvent) (i : Instr),
    s.inbox = .transaction cmd wdata :: rest → decode cmd = .ok i → step s = .next t → t.err = 2 →
      s.err = 2 ∧ ∃ addr, i = .read addr

/-- An ill-formed term (WRITE with N in 5..7, READ of an undefined address), given to `exec` past the decoder, is
IllegalCommand too, in whatever state: the model's reading of the commands' own error lists (log 12). -/
def Obligations.IllFormedCommandIsIllegal : Prop :=
  ∀ (i : Instr) (s : State), i.wellFormed = false →
    ∃ t, exec i s = .next t ∧ t.err = 2 ∧ t.errSticky = true ∧ t.toBlock.SameButErrorRecord s.toBlock ∧
      Returned s t (statusWord t.toBlock)

/-! ## The commands: what each leaves, element by element -/

/-- KEYW (41_construct.md section 1): four bytes of the staging key take the lanes of wdata, in whatever state, and nothing
else of the block changes but ERR. -/
def Obligations.KeywStagesFourBytes : Prop :=
  ∀ (idx : BitVec 3) (s : State),
    ∃ t, exec (.keyw idx) s = .next t ∧
      (∀ j : Fin 4, t.kstage[4 * idx.toNat + j.val]? = some (lane s.wdata j.val)) ∧
      (∀ k : Fin 32, k.val / 4 ≠ idx.toNat → t.kstage[k] = s.kstage[k]) ∧
      t.toBlock.SameParameters s.toBlock ∧ t.toBlock.SameStream s.toBlock ∧ t.toBlock.SameDigest s.toBlock ∧
      t.err = 0 ∧ t.errSticky = s.errSticky ∧ Returned s t (statusWord t.toBlock)

/-- INIT with legal lengths (41_construct.md sections 2, the parameter word, INIT and ContextInit): the context as
constructed. -/
def Obligations.InitConstructsTheContext : Prop :=
  ∀ (nn kk : BitVec 6) (s : State), 1 ≤ nn.toNat → nn.toNat ≤ 32 → kk.toNat ≤ 32 →
    ∃ t, exec (.init nn kk) s = .next t ∧ t.configured = true ∧ t.nn = nn ∧ t.kk = kk ∧
      (∀ j : Fin 32, t.ckey[j] = if j.val < kk.toNat then s.kstage[j] else 0) ∧ t.kstage = s.kstage ∧
      t.h[0] = 0x6A09E667#32 ^^^ (0x01010000#32 ^^^ (kk.setWidth 32 <<< 8) ^^^ nn.setWidth 32) ∧
      (∀ i : Fin 8, i ≠ 0 → t.h[i] = iv[i]) ∧ t.t = 0 ∧
      (kk = 0 → t.offset = 0 ∧ ∀ k : Fin 64, t.buf[k] = 0) ∧
      (kk ≠ 0 → t.offset = 64 ∧ (∀ k : Fin 32, t.buf[k.val] = if k.val < kk.toNat then s.kstage[k] else 0) ∧
        ∀ k : Fin 64, 32 ≤ k.val → t.buf[k] = 0) ∧
      (∀ i : Fin 8, t.digest[i] = 0) ∧ t.digestValid = false ∧
      t.err = 0 ∧ t.errSticky = s.errSticky ∧ Returned s t (statusWord t.toBlock)

/-- INIT with a length out of range (41_construct.md R134): InvalidParameter, and the old context is discarded, so that
WRITE, SUM and RESET then raise NotConfigured, whatever commands run before them, until an INIT whose lengths are in range. -/
def Obligations.InitOutOfRangeDiscardsTheContext : Prop :=
  ∀ (nn kk : BitVec 6) (s : State), (nn.toNat < 1 ∨ 32 < nn.toNat ∨ 32 < kk.toNat) →
    ∃ t, exec (.init nn kk) s = .next t ∧ t.configured = false ∧ t.nn = 0 ∧ t.kk = 0 ∧ (∀ j : Fin 32, t.ckey[j] = 0) ∧
      (∀ i : Fin 8, t.h[i] = 0) ∧ t.t = 0 ∧ (∀ k : Fin 64, t.buf[k] = 0) ∧ t.offset = 0 ∧ (∀ i : Fin 8, t.digest[i] = 0) ∧
      t.digestValid = false ∧ t.kstage = s.kstage ∧ t.err = 1 ∧ t.errSticky = true ∧
      Returned s t (statusWord t.toBlock) ∧
      ∀ (cs : List (Instr × Word)) (u : State),
        (∀ c ∈ cs, ∀ nn' kk', c.1 = .init nn' kk' → nn'.toNat < 1 ∨ 32 < nn'.toNat ∨ 32 < kk'.toNat) →
          runCommands cs t = .next u →
            ∀ i : Instr, i = .sum ∨ i = .reset ∨ (∃ n : BitVec 3, n.toNat ≤ 4 ∧ i = .write n) →
              ∃ v, exec i u = .next v ∧ v.err = 3 ∧ v.toBlock.SameButErrorRecord u.toBlock

/-- WRITE whose bytes fit the buffer (42_write.md sections R151 and R152): they are appended, a buffer that becomes exactly
full is not compressed, and N = 0 changes nothing but ERR. -/
def Obligations.WriteAppendsWithinTheBlock : Prop :=
  ∀ (n : BitVec 3) (s : State), n.toNat ≤ 4 → s.configured = true → s.offset.toNat + n.toNat ≤ 64 →
    ∃ t, exec (.write n) s = .next t ∧ t.offset.toNat = s.offset.toNat + n.toNat ∧
      (∀ k : Fin 64, t.buf[k] =
        if s.offset.toNat ≤ k.val ∧ k.val < s.offset.toNat + n.toNat then lane s.wdata (k.val - s.offset.toNat)
        else s.buf[k]) ∧
      t.h = s.h ∧ t.t = s.t ∧ t.toBlock.SameParameters s.toBlock ∧ t.kstage = s.kstage ∧ t.digest = s.digest ∧
      (n ≠ 0 → t.digestValid = false) ∧ (n = 0 → t.digestValid = s.digestValid) ∧
      t.err = 0 ∧ t.errSticky = s.errSticky ∧ Returned s t (statusWord t.toBlock)

/-- WRITE whose bytes pass the end of the buffer (42_write.md, R151 and R155(d)): the bytes that fit complete the block, the
full block is compressed once with t advanced by 64 and final = 0, and the bytes after it start the next block. -/
def Obligations.WriteCompressesAcrossTheBlockEnd : Prop :=
  ∀ (n : BitVec 3) (s : State), n.toNat ≤ 4 → s.configured = true → s.offset.toNat ≤ 64 → 64 < s.offset.toNat + n.toNat →
    ∃ (t : State) (full : Vector Byte 64), exec (.write n) s = .next t ∧
      (∀ k : Fin 64, full[k] = if k.val < s.offset.toNat then s.buf[k] else lane s.wdata (k.val - s.offset.toNat)) ∧
      t.t = s.t + 64 ∧ t.h = compress s.h full (s.t + 64) false ∧
      t.offset.toNat = s.offset.toNat + n.toNat - 64 ∧
      (∀ k : Fin 64, t.buf[k] =
        if k.val < s.offset.toNat + n.toNat - 64 then lane s.wdata (k.val + 64 - s.offset.toNat) else 0) ∧
      t.toBlock.SameParameters s.toBlock ∧ t.kstage = s.kstage ∧ t.digest = s.digest ∧ t.digestValid = false ∧
      t.err = 0 ∧ t.errSticky = s.errSticky ∧ Returned s t (statusWord t.toBlock)

/-- SUM (43_finalization.md, R170, R171, R174): the padded final block is compressed with final = 1 and the count of all bytes,
digest byte k is byte k of the little-endian serialization, bytes from NN on read zero, and the stream is as before. -/
def Obligations.SumComputesTheDigest : Prop :=
  ∀ s : State, s.configured = true →
    ∃ (t : State) (fb : Vector Byte 64) (hf : Vector Word 8), exec .sum s = .next t ∧
      (∀ k : Fin 64, fb[k] = if k.val < s.offset.toNat then s.buf[k] else 0) ∧
      hf = compress s.h fb (s.t + s.offset.setWidth 64) true ∧
      (∀ k : Fin 32, lane (t.digest[k.val / 4]'(by omega)) (k.val % 4) =
        if k.val < s.nn.toNat then lane (hf[k.val / 4]'(by omega)) (k.val % 4) else 0) ∧
      t.digestValid = true ∧ t.toBlock.SameStream s.toBlock ∧ t.toBlock.SameParameters s.toBlock ∧ t.kstage = s.kstage ∧
      t.err = 0 ∧ t.errSticky = s.errSticky ∧ Returned s t (statusWord t.toBlock)

/-- RESET (44_reset.md R190 with ContextInit, 41_construct.md R135): the context starts again with its latched parameters and
key. -/
def Obligations.ResetRestartsTheContext : Prop :=
  ∀ s : State, s.configured = true →
    ∃ t, exec .reset s = .next t ∧ t.toBlock.SameParameters s.toBlock ∧ t.kstage = s.kstage ∧
      t.h[0] = 0x6A09E667#32 ^^^ (0x01010000#32 ^^^ (s.kk.setWidth 32 <<< 8) ^^^ s.nn.setWidth 32) ∧
      (∀ i : Fin 8, i ≠ 0 → t.h[i] = iv[i]) ∧ t.t = 0 ∧
      (s.kk = 0 → t.offset = 0 ∧ ∀ k : Fin 64, t.buf[k] = 0) ∧
      (s.kk ≠ 0 → t.offset = 64 ∧ (∀ k : Fin 32, t.buf[k.val] = s.ckey[k]) ∧ ∀ k : Fin 64, 32 ≤ k.val → t.buf[k] = 0) ∧
      (∀ i : Fin 8, t.digest[i] = 0) ∧ t.digestValid = false ∧
      t.err = 0 ∧ t.errSticky = s.errSticky ∧ Returned s t (statusWord t.toBlock)

/-- READ (45_read.md R200): each of the ten registers is returned, whether or not a context exists, and no element of the
block is written, ERR among them; every other address is IllegalCommand. -/
def Obligations.ReadReturnsTheRegister : Prop :=
  ∀ s : State,
    (∃ t, exec (.read 0x00) s = .next t ∧ t.toBlock = s.toBlock ∧ Returned s t (statusWord s.toBlock)) ∧
    (∃ t, exec (.read 0x01) s = .next t ∧ t.toBlock = s.toBlock ∧ Returned s t (configWord s.toBlock)) ∧
    (∀ i : Fin 8, ∃ t, exec (.read (BitVec.ofNat 8 (0x10 + i.val))) s = .next t ∧ t.toBlock = s.toBlock ∧
      Returned s t s.digest[i]) ∧
    ∀ addr : BitVec 8, ¬ (addr.toNat = 0x00 ∨ addr.toNat = 0x01 ∨ (0x10 ≤ addr.toNat ∧ addr.toNat ≤ 0x17)) →
      ∃ t, exec (.read addr) s = .next t ∧ t.err = 2 ∧ t.errSticky = true ∧ t.toBlock.SameButErrorRecord s.toBlock ∧
        Returned s t (statusWord t.toBlock)

/-! ## Status, errors and flags -/

/-- 10_state.md R30: the bits of STATUS, the legal values of its ERR field in every state that meets the invariant, and its
value after reset. -/
def Obligations.StatusLayout : Prop :=
  (∀ b : Block,
    (statusWord b).getLsbD 0 = b.configured ∧ (statusWord b).getLsbD 1 = b.digestValid ∧
      (statusWord b).getLsbD 2 = b.errSticky ∧ (statusWord b).getLsbD 3 = false ∧
      (statusWord b).extractLsb' 4 4 = b.err ∧ (statusWord b).extractLsb' 8 24 = 0#24 ∧
      (b.Inv → ((statusWord b).extractLsb' 4 4).toNat ≤ 3)) ∧
  statusWord State.reset.toBlock = 0x00000000#32

/-- 10_state.md R32: the fields of CONFIG, that it reads 0 with no context in every state that meets the invariant, and its
value after reset. -/
def Obligations.ConfigLayout : Prop :=
  (∀ b : Block,
    (configWord b).extractLsb' 0 6 = b.nn ∧ (configWord b).extractLsb' 6 2 = 0#2 ∧
      (configWord b).extractLsb' 8 6 = b.kk ∧ (configWord b).extractLsb' 14 18 = 0#18 ∧
      (b.Inv → b.configured = false → configWord b = 0)) ∧
  configWord State.reset.toBlock = 0x00000000#32

/-- 60_exceptions.md R212: WRITE, SUM and RESET with CONFIGURED = 0 raise NotConfigured, and KEYW, INIT and READ never do.
CONFIGURED is 0 after hardware reset and after a failed INIT, and stays 0 until a successful INIT. -/
def Obligations.NotConfiguredWithoutContext : Prop :=
  (∀ (i : Instr) (s : State), s.configured = false →
    (i = .sum ∨ i = .reset ∨ ∃ n : BitVec 3, n.toNat ≤ 4 ∧ i = .write n) →
      ∃ t, exec i s = .next t ∧ t.err = 3 ∧ t.errSticky = true ∧ t.toBlock.SameButErrorRecord s.toBlock ∧
        Returned s t (statusWord t.toBlock)) ∧
  (∀ (i : Instr) (s t : State),
    ((∃ idx, i = .keyw idx) ∨ (∃ nn kk, i = .init nn kk) ∨ ∃ addr, i = .read addr) →
      exec i s = .next t → s.err ≠ 3 → t.err ≠ 3) ∧
  State.reset.configured = false ∧
  (∀ (nn kk : BitVec 6) (s t : State), exec (.init nn kk) s = .next t → t.err ≠ 0 → t.configured = false) ∧
  ∀ s t : State, step s = .next t → s.configured = false → t.configured = true →
    ∃ cmd wdata rest nn kk, s.inbox = .transaction cmd wdata :: rest ∧ decode cmd = .ok (.init nn kk) ∧ t.err = 0

/-- 60_exceptions.md R215: one code per transaction; decode is checked first, then, for WRITE, SUM and RESET, the
configuration, then, for INIT, the range. -/
def Obligations.ErrorPriority : Prop :=
  ∀ (s t : State) (cmd wdata : Word) (rest : List HostEvent),
    s.inbox = .transaction cmd wdata :: rest → step s = .next t →
      (∀ e, decode cmd = .error e → t.err = 2) ∧
      (∀ i, decode cmd = .ok i → (i = .sum ∨ i = .reset ∨ ∃ n, i = .write n) →
        t.err = if s.configured then 0 else 3) ∧
      (∀ nn kk, decode cmd = .ok (.init nn kk) →
        t.err = if 1 ≤ nn.toNat ∧ nn.toNat ≤ 32 ∧ kk.toNat ≤ 32 then 0 else 1) ∧
      (∀ idx, decode cmd = .ok (.keyw idx) → t.err = 0) ∧
      (∀ addr, decode cmd = .ok (.read addr) → t.err = s.err)

/-- 60_exceptions.md R213: a transaction that fails records its code, sets ERR_STICKY, returns the new STATUS and leaves every
other element as it was, but for the context a failed INIT discards (`initFail`, R134). A successful READ sets nothing, and
every other success leaves ERR = 0 and ERR_STICKY as it was. -/
def Obligations.FailedTransactionIsPrecise : Prop :=
  ∀ (s t : State) (cmd wdata : Word) (rest : List HostEvent),
    s.inbox = .transaction cmd wdata :: rest → step s = .next t →
      ((∃ addr, decode cmd = .ok (.read addr)) → t.toBlock = s.toBlock) ∧
      ((¬ ∃ addr, decode cmd = .ok (.read addr)) → t.err = 0 → t.errSticky = s.errSticky) ∧
      ((¬ ∃ addr, decode cmd = .ok (.read addr)) → t.err ≠ 0 →
        t.errSticky = true ∧ t.results = s.results ++ [statusWord t.toBlock] ∧
          (((t.err = 2 ∨ t.err = 3) ∧ t.toBlock.SameButErrorRecord s.toBlock) ∨
            (t.err = 1 ∧ (∃ nn kk, decode cmd = .ok (.init nn kk)) ∧
              t.toBlock.SameButErrorRecord (initFail s.toBlock))))

/-- 60_exceptions.md R214: every failing transaction sets ERR_STICKY, and only hardware reset clears it; ERR is overwritten by
every transaction but a successful READ: its value afterwards is the transaction's own result code, 0 on success, whatever
ERR stood before. -/
def Obligations.OnlyHardwareResetClearsSticky : Prop :=
  ∀ s t : State, step s = .next t →
    (s.errSticky = true → t.errSticky = false → ∃ rest, s.inbox = .hardwareReset :: rest) ∧
    (∀ rest, s.inbox = .hardwareReset :: rest → t.errSticky = false) ∧
    (∀ cmd wdata rest, s.inbox = .transaction cmd wdata :: rest →
      ((∃ addr, decode cmd = .ok (.read addr)) → t.err = s.err ∧ t.errSticky = s.errSticky) ∧
      (∀ e, decode cmd = .error e → t.err = 2) ∧
      (∀ i, decode cmd = .ok i → (i = .sum ∨ i = .reset ∨ ∃ n, i = .write n) →
        t.err = if s.configured then 0 else 3) ∧
      (∀ nn kk, decode cmd = .ok (.init nn kk) →
        t.err = if 1 ≤ nn.toNat ∧ nn.toNat ≤ 32 ∧ kk.toNat ≤ 32 then 0 else 1) ∧
      (∀ idx, decode cmd = .ok (.keyw idx) → t.err = 0) ∧
      ((¬ ∃ addr, decode cmd = .ok (.read addr)) →
        (t.err = 0 ∧ t.errSticky = s.errSticky) ∨ (t.err ≠ 0 ∧ t.errSticky = true)))

/-- 45_read.md R202: every transaction other than a successful READ returns STATUS as it is after the transaction. -/
def Obligations.ResultWordIsStatusAfter : Prop :=
  ∀ (s t : State) (cmd wdata : Word) (rest : List HostEvent),
    s.inbox = .transaction cmd wdata :: rest → step s = .next t →
      (¬ ∃ addr, decode cmd = .ok (.read addr)) → t.results = s.results ++ [statusWord t.toBlock]

/-- 10_state.md R23: NN, KK and CKEY change only at INIT, failed or not, and at hardware reset; a KEYW changes KSTAGE only,
besides the result code every command records. -/
def Obligations.ParametersChangeOnlyAtInit : Prop :=
  ∀ s t : State, step s = .next t →
    (¬ (t.nn = s.nn ∧ t.kk = s.kk ∧ t.ckey = s.ckey) →
      (∃ rest, s.inbox = .hardwareReset :: rest) ∨
        ∃ cmd wdata rest nn kk, s.inbox = .transaction cmd wdata :: rest ∧ decode cmd = .ok (.init nn kk)) ∧
    (∀ cmd wdata rest idx, s.inbox = .transaction cmd wdata :: rest → decode cmd = .ok (.keyw idx) →
      t.toBlock.SameParameters s.toBlock ∧ t.toBlock.SameStream s.toBlock ∧ t.toBlock.SameDigest s.toBlock)

/-- 10_state.md section 3, the staging key: KSTAGE changes only at KEYW and hardware reset. -/
def Obligations.StagingKeyChangesOnlyAtKeyw : Prop :=
  ∀ s t : State, step s = .next t → t.kstage ≠ s.kstage →
    (∃ rest, s.inbox = .hardwareReset :: rest) ∨
      ∃ cmd wdata rest idx, s.inbox = .transaction cmd wdata :: rest ∧ decode cmd = .ok (.keyw idx)

/-- 10_state.md section 4, the table of who sets and clears CONFIGURED and DIGEST_VALID: only a successful INIT sets the one and
only a failed INIT or hardware reset clears it; only a SUM sets the other, and a WRITE of at least one byte, an INIT, a RESET
or hardware reset clears it. -/
def Obligations.WhoSetsAndClearsTheFlags : Prop :=
  ∀ s t : State, step s = .next t →
    (s.configured = false → t.configured = true →
      ∃ cmd wdata rest nn kk, s.inbox = .transaction cmd wdata :: rest ∧ decode cmd = .ok (.init nn kk) ∧ t.err = 0) ∧
    (s.configured = true → t.configured = false →
      (∃ rest, s.inbox = .hardwareReset :: rest) ∨
        ∃ cmd wdata rest nn kk, s.inbox = .transaction cmd wdata :: rest ∧ decode cmd = .ok (.init nn kk) ∧ t.err = 1) ∧
    (s.digestValid = false → t.digestValid = true →
      ∃ cmd wdata rest, s.inbox = .transaction cmd wdata :: rest ∧ decode cmd = .ok .sum ∧ s.configured = true) ∧
    (s.digestValid = true → t.digestValid = false →
      (∃ rest, s.inbox = .hardwareReset :: rest) ∨
        ∃ cmd wdata rest i, s.inbox = .transaction cmd wdata :: rest ∧ decode cmd = .ok i ∧
          (i = .reset ∨ (∃ nn kk, i = .init nn kk) ∨ ∃ n, n ≠ 0 ∧ i = .write n))

/-! ## What flows where -/

/-- 45_read.md R201: no command returns h, t, buf, OFFSET, KSTAGE or CKEY. Two blocks that differ only in these give, to the
same transaction, the same result word. -/
def Obligations.HiddenElementsAreNeverReturned : Prop :=
  ∀ (a b a' b' : State) (cmd wdata : Word) (rest : List HostEvent),
    a.toBlock.SameVisible b.toBlock → a.results = b.results →
      a.inbox = .transaction cmd wdata :: rest → b.inbox = .transaction cmd wdata :: rest →
        step a = .next a' → step b = .next b' → a'.results = b'.results

/-- 30_encoding.md section 2, the data word: INIT, SUM, RESET and READ ignore wdata, and WRITE ignores its lanes from N on. -/
def Obligations.UnusedDataLanesAreIgnored : Prop :=
  ∀ (i : Instr) (s t u : State) (w : Word),
    (¬ ∃ idx, i = .keyw idx) → (∀ n, i = .write n → ∀ j < n.toNat, lane w j = lane s.wdata j) →
      exec i s = .next t → exec i { s with wdata := w } = .next u → u.toBlock = t.toBlock ∧ u.results = t.results

/-- 41_construct.md, INIT replaces the context (R137) and KSTAGE from KK on never reaches the hash (R138(c), (e)): the context
INIT leaves depends on its operands and on the first KK staging bytes alone, whatever context was there. -/
def Obligations.InitDependsOnTheKeyPrefixAlone : Prop :=
  ∀ (nn kk : BitVec 6) (a b a' b' : State),
    (∀ j : Fin 32, j.val < kk.toNat → a.kstage[j] = b.kstage[j]) →
      exec (.init nn kk) a = .next a' → exec (.init nn kk) b = .next b' →
        a'.toBlock.SameParameters b'.toBlock ∧ a'.toBlock.SameStream b'.toBlock ∧ a'.toBlock.SameDigest b'.toBlock ∧
          a'.err = b'.err

/-- 70_reset_and_hazards.md R246: a KEYW affects neither the current context nor a later RESET; it takes effect only at the
next INIT. Any run of commands with no INIT leaves the same context and the same DIGEST after the KEYW as without it. -/
def Obligations.KeywDoesNotReachTheContext : Prop :=
  ∀ (idx : BitVec 3) (s t : State) (cs : List (Instr × Word)), exec (.keyw idx) s = .next t →
    (∀ c ∈ cs, ∀ nn kk, c.1 ≠ .init nn kk) →
      ∃ u v, runCommands cs s = .next u ∧ runCommands cs t = .next v ∧ v.toBlock.SameParameters u.toBlock ∧
        v.toBlock.SameStream u.toBlock ∧ v.toBlock.SameDigest u.toBlock

/-- 43_finalization.md R172: SUM does not change the stream; a later SUM with no byte written between gives the same DIGEST;
and a WRITE after SUM continues the stream as if SUM had not been. -/
def Obligations.SumDoesNotChangeTheStream : Prop :=
  ∀ s : State, s.configured = true →
    ∃ t, exec .sum s = .next t ∧ t.toBlock.SameStream s.toBlock ∧
      (∀ cs : List (Instr × Word), (∀ c ∈ cs, streaming c.1 = true) → writtenBytes cs = [] →
        ∃ u v, runCommands cs t = .next u ∧ exec .sum u = .next v ∧ v.digest = t.digest) ∧
      ∀ (n : BitVec 3) (w : Word), n.toNat ≤ 4 →
        ∃ u v, exec (.write n) { t with wdata := w } = .next u ∧ exec (.write n) { s with wdata := w } = .next v ∧
          u.toBlock.SameStream v.toBlock

/-- 20_memory.md section 4, idempotency: every command but a WRITE of at least one byte, issued again with the same operands and
data word, leaves the block as the first left it. -/
def Obligations.RepeatingACommandChangesNothing : Prop :=
  ∀ (i : Instr) (s t u : State), (∀ n, i = .write n → n = 0) → exec i s = .next t → exec i t = .next u →
    u.toBlock = t.toBlock

/-- 43_finalization.md R174 and 10_state.md R27(d): t + OFFSET counts the bytes absorbed, modulo 2^64: INIT starts it at 64 with
a key and 0 without, and WRITE adds N. -/
def Obligations.TotalBytesCountsTheStream : Prop :=
  (∀ (nn kk : BitVec 6) (s : State), 1 ≤ nn.toNat → nn.toNat ≤ 32 → kk.toNat ≤ 32 →
    ∃ t, exec (.init nn kk) s = .next t ∧ totalBytes t.toBlock = if kk = 0 then 0 else 64) ∧
  ∀ (n : BitVec 3) (s : State), n.toNat ≤ 4 → s.configured = true → s.offset.toNat ≤ 64 →
    ∃ t, exec (.write n) s = .next t ∧ totalBytes t.toBlock = totalBytes s.toBlock + n.setWidth 64

/-! ## Invariants and whole-machine results -/

/-- The reset state meets every invariant stated below. -/
def Obligations.ResetMeetsTheInvariants : Prop :=
  State.reset.toBlock.Inv ∧ State.reset.toBlock.DigestCurrent ∧ State.reset.toBlock.KeyBlockCounted

/-- Every step keeps the block's invariant (10_state.md R20, R24, R27(a) and (b), R29, R35; 42_write.md R150;
70_reset_and_hazards.md R247), from every state that meets it. -/
def Obligations.StepKeepsTheInvariant : Prop :=
  ∀ s t : State, s.toBlock.Inv → step s = .next t → t.toBlock.Inv

/-- Every step keeps the meaning of DIGEST_VALID (10_state.md section 3): while it is 1, DIGEST is the digest a SUM would make
of the stream as it stands. -/
def Obligations.StepKeepsDigestValidTrue : Prop :=
  ∀ s t : State, s.toBlock.DigestCurrent → step s = .next t → t.toBlock.DigestCurrent

/-- Every step keeps the key block counted (10_state.md R27(c)), while the counter does not wrap. -/
def Obligations.StepKeepsTheKeyBlockCounted : Prop :=
  ∀ s t : State, s.toBlock.OffsetBounded → s.toBlock.KeyBlockCounted → s.t.toNat + 64 < 2 ^ 64 → step s = .next t →
    t.toBlock.KeyBlockCounted

/-- Streaming equivalence (42_write.md, R153): from a configured state, two runs of WRITE, SUM, KEYW and READ commands that
carry the same bytes, cut into WRITEs and interleaved in any way, reach the same (h, t, buf, OFFSET), and a SUM after either
gives the same digest. -/
def Obligations.StreamingEquivalence : Prop :=
  ∀ (s : State) (cs ds : List (Instr × Word)), s.configured = true →
    (∀ c ∈ cs, streaming c.1 = true) → (∀ d ∈ ds, streaming d.1 = true) → writtenBytes cs = writtenBytes ds →
      ∃ t u t' u', runCommands cs s = .next t ∧ runCommands ds s = .next u ∧ t.toBlock.SameStream u.toBlock ∧
        exec .sum t = .next t' ∧ exec .sum u = .next u' ∧ t'.digest = u'.digest

/-- Idempotent reset (44_reset.md, R191): after an INIT and any run of commands with no INIT among them, RESET restores the
stream and the digest registers INIT left, and the same commands then give the same digest as after that INIT. -/
def Obligations.ResetEqualsFreshInit : Prop :=
  ∀ (nn kk : BitVec 6) (s fresh used : State) (cs : List (Instr × Word)),
    exec (.init nn kk) s = .next fresh → fresh.configured = true → (∀ c ∈ cs, ∀ nn' kk', c.1 ≠ .init nn' kk') →
      runCommands cs fresh = .next used →
        ∃ again, exec .reset used = .next again ∧ again.toBlock.SameStream fresh.toBlock ∧
          again.toBlock.SameDigest fresh.toBlock ∧ again.toBlock.SameParameters fresh.toBlock ∧
          ∀ ws : List (Instr × Word), (∀ w ∈ ws, streaming w.1 = true) →
            ∃ t u t' u', runCommands ws again = .next t ∧ runCommands ws fresh = .next u ∧
              exec .sum t = .next t' ∧ exec .sum u = .next u' ∧ t'.digest = u'.digest

/-! ## The compression core -/

/-- 40_compression_core.md R106: byte j of message word i is byte 4i + j of the block. -/
def Obligations.MessageWordsAreLittleEndian : Prop :=
  ∀ (block : Vector Byte 64) (i : Fin 16) (j : Fin 4),
    lane (messageWords block)[i] j.val = block[4 * i.val + j.val]'(by omega)

/-- 40_compression_core.md R107: the working vector before the rounds. -/
def Obligations.WorkingVectorInitialisation : Prop :=
  ∀ (h : Vector Word 8) (t : Counter) (final : Bool),
    (∀ i : Fin 8, (workingVector h t final)[i.val] = h[i]) ∧
      (∀ i : Fin 4, (workingVector h t final)[i.val + 8] = iv[i.val]) ∧
      (workingVector h t final)[12] = iv[4] ^^^ t.setWidth 32 ∧
      (workingVector h t final)[13] = iv[5] ^^^ (t >>> 32).setWidth 32 ∧
      (workingVector h t final)[14] = (if final then iv[6] ^^^ 0xFFFFFFFF#32 else iv[6]) ∧
      (workingVector h t final)[15] = iv[7]

/-- 40_compression_core.md R104: what G leaves in its four words, and that it leaves the other twelve alone. -/
def Obligations.MixingOperation : Prop :=
  ∀ (v : Vector Word 16) (a b c d : Fin 16) (x y : Word), [a, b, c, d].Nodup →
    ∃ a1 a2 b1 b2 c1 c2 d1 d2 : Word,
      a1 = v[a] + v[b] + x ∧ d1 = (v[d] ^^^ a1).rotateRight 16 ∧ c1 = v[c] + d1 ∧ b1 = (v[b] ^^^ c1).rotateRight 12 ∧
      a2 = a1 + b1 + y ∧ d2 = (d1 ^^^ a2).rotateRight 8 ∧ c2 = c1 + d2 ∧ b2 = (b1 ^^^ c2).rotateRight 7 ∧
      (mix v a b c d x y)[a] = a2 ∧ (mix v a b c d x y)[b] = b2 ∧ (mix v a b c d x y)[c] = c2 ∧
      (mix v a b c d x y)[d] = d2 ∧ ∀ k : Fin 16, k ∉ [a, b, c, d] → (mix v a b c d x y)[k] = v[k]

/-- 40_compression_core.md, R108 and R109: F applies the ten rounds in order to the initial working vector and XORs both halves
of the result into the chaining state. -/
def Obligations.CompressionOutput : Prop :=
  ∀ (h : Vector Word 8) (block : Vector Byte 64) (t : Counter) (final : Bool),
    ∃ v : Fin 11 → Vector Word 16, v 0 = workingVector h t final ∧
      (∀ r : Fin 10, v r.succ = mixRound (messageWords block) (v r.castSucc) sigma[r]) ∧
      ∀ i : Fin 8, (compress h block t final)[i] = h[i] ^^^ (v 10)[i.val] ^^^ (v 10)[i.val + 8]

/-- 40_compression_core.md section 2: each row of the message schedule is a permutation of 0..15. -/
def Obligations.ScheduleRowsArePermutations : Prop := ∀ (r : Fin 10) (i : Fin 16), ∃ k : Fin 16, sigma[r][k] = i

/-- 95_test_vectors.md section 1.1, the source's known answer KAT-256, as one evaluation of F: the key block 00..1F as the
final block with t = 64 from the chaining state of NN = 32, KK = 32. -/
def Obligations.KnownAnswerOfTheKeyBlock : Prop :=
  compress (initialChaining 32 32) (keyBlock (Vector.ofFn fun j : Fin 32 => BitVec.ofNat 8 j.val)) 64 true =
    #v[0x7D99A848, 0x6B8707A4, 0xD9C0793D, 0x3BAD2523, 0x54B7CB89, 0x1AB76AD8, 0xD37A04EE, 0x492CFD45]
end

