-- ==== Sys2Proof/Laws/State.lean ====
section
/-! SUPPORT. One lemma per field for each update of the machine, true by rfl, so that no later proof unfolds an update. -/

namespace Sys2Proof.Machine

@[simp] theorem State.answer_toBlock (s : State) (b : Block) (w : Word) : (s.answer b w).toBlock = b := rfl
@[simp] theorem State.answer_inbox (s : State) (b : Block) (w : Word) : (s.answer b w).inbox = s.inbox := rfl
@[simp] theorem State.answer_wdata (s : State) (b : Block) (w : Word) : (s.answer b w).wdata = s.wdata := rfl
@[simp] theorem State.answer_results (s : State) (b : Block) (w : Word) : (s.answer b w).results = s.results ++ [w] := rfl

@[simp] theorem State.accept_toBlock (s : State) (w : Word) (rest : List HostEvent) : (s.accept w rest).toBlock = s.toBlock := rfl
@[simp] theorem State.accept_inbox (s : State) (w : Word) (rest : List HostEvent) : (s.accept w rest).inbox = rest := rfl
@[simp] theorem State.accept_wdata (s : State) (w : Word) (rest : List HostEvent) : (s.accept w rest).wdata = w := rfl
@[simp] theorem State.accept_results (s : State) (w : Word) (rest : List HostEvent) : (s.accept w rest).results = s.results := rfl

@[simp] theorem State.issue_toBlock (s : State) (cmd : Word) : (s.issue cmd).toBlock = s.toBlock := rfl
@[simp] theorem State.issue_inbox (s : State) (cmd : Word) : (s.issue cmd).inbox = .transaction cmd 0 :: s.inbox := rfl
@[simp] theorem State.issue_wdata (s : State) (cmd : Word) : (s.issue cmd).wdata = s.wdata := rfl
@[simp] theorem State.issue_results (s : State) (cmd : Word) : (s.issue cmd).results = s.results := rfl

@[simp] theorem hardwareReset_toBlock (s : State) : (hardwareReset s).toBlock = Block.reset := rfl
@[simp] theorem hardwareReset_inbox (s : State) : (hardwareReset s).inbox = s.inbox := rfl
@[simp] theorem hardwareReset_wdata (s : State) : (hardwareReset s).wdata = s.wdata := rfl
@[simp] theorem hardwareReset_results (s : State) : (hardwareReset s).results = s.results := rfl

/-! How a command records its outcome, and the smaller updates, element by element. -/

@[simp] theorem Block.recordOk_configured (b : Block) : (b.recordOk).configured = b.configured := rfl
@[simp] theorem Block.recordOk_nn (b : Block) : (b.recordOk).nn = b.nn := rfl
@[simp] theorem Block.recordOk_kk (b : Block) : (b.recordOk).kk = b.kk := rfl
@[simp] theorem Block.recordOk_kstage (b : Block) : (b.recordOk).kstage = b.kstage := rfl
@[simp] theorem Block.recordOk_ckey (b : Block) : (b.recordOk).ckey = b.ckey := rfl
@[simp] theorem Block.recordOk_h (b : Block) : (b.recordOk).h = b.h := rfl
@[simp] theorem Block.recordOk_t (b : Block) : (b.recordOk).t = b.t := rfl
@[simp] theorem Block.recordOk_buf (b : Block) : (b.recordOk).buf = b.buf := rfl
@[simp] theorem Block.recordOk_offset (b : Block) : (b.recordOk).offset = b.offset := rfl
@[simp] theorem Block.recordOk_digest (b : Block) : (b.recordOk).digest = b.digest := rfl
@[simp] theorem Block.recordOk_digestValid (b : Block) : (b.recordOk).digestValid = b.digestValid := rfl
@[simp] theorem Block.recordOk_err (b : Block) : (b.recordOk).err = 0 := rfl
@[simp] theorem Block.recordOk_errSticky (b : Block) : (b.recordOk).errSticky = b.errSticky := rfl

@[simp] theorem Block.recordError_configured (b : Block) (e : ErrorKind) : (b.recordError e).configured = b.configured := rfl
@[simp] theorem Block.recordError_nn (b : Block) (e : ErrorKind) : (b.recordError e).nn = b.nn := rfl
@[simp] theorem Block.recordError_kk (b : Block) (e : ErrorKind) : (b.recordError e).kk = b.kk := rfl
@[simp] theorem Block.recordError_kstage (b : Block) (e : ErrorKind) : (b.recordError e).kstage = b.kstage := rfl
@[simp] theorem Block.recordError_ckey (b : Block) (e : ErrorKind) : (b.recordError e).ckey = b.ckey := rfl
@[simp] theorem Block.recordError_h (b : Block) (e : ErrorKind) : (b.recordError e).h = b.h := rfl
@[simp] theorem Block.recordError_t (b : Block) (e : ErrorKind) : (b.recordError e).t = b.t := rfl
@[simp] theorem Block.recordError_buf (b : Block) (e : ErrorKind) : (b.recordError e).buf = b.buf := rfl
@[simp] theorem Block.recordError_offset (b : Block) (e : ErrorKind) : (b.recordError e).offset = b.offset := rfl
@[simp] theorem Block.recordError_digest (b : Block) (e : ErrorKind) : (b.recordError e).digest = b.digest := rfl
@[simp] theorem Block.recordError_digestValid (b : Block) (e : ErrorKind) : (b.recordError e).digestValid = b.digestValid := rfl
@[simp] theorem Block.recordError_err (b : Block) (e : ErrorKind) : (b.recordError e).err = e.code := rfl
@[simp] theorem Block.recordError_errSticky (b : Block) (e : ErrorKind) : (b.recordError e).errSticky = true := rfl

@[simp] theorem keywBlock_configured (i : BitVec 3) (w : Word) (b : Block) : (keywBlock i w b).configured = b.configured := rfl
@[simp] theorem keywBlock_nn (i : BitVec 3) (w : Word) (b : Block) : (keywBlock i w b).nn = b.nn := rfl
@[simp] theorem keywBlock_kk (i : BitVec 3) (w : Word) (b : Block) : (keywBlock i w b).kk = b.kk := rfl
@[simp] theorem keywBlock_kstage (i : BitVec 3) (w : Word) (b : Block) : (keywBlock i w b).kstage = stageKeyWord b.kstage i w := rfl
@[simp] theorem keywBlock_ckey (i : BitVec 3) (w : Word) (b : Block) : (keywBlock i w b).ckey = b.ckey := rfl
@[simp] theorem keywBlock_h (i : BitVec 3) (w : Word) (b : Block) : (keywBlock i w b).h = b.h := rfl
@[simp] theorem keywBlock_t (i : BitVec 3) (w : Word) (b : Block) : (keywBlock i w b).t = b.t := rfl
@[simp] theorem keywBlock_buf (i : BitVec 3) (w : Word) (b : Block) : (keywBlock i w b).buf = b.buf := rfl
@[simp] theorem keywBlock_offset (i : BitVec 3) (w : Word) (b : Block) : (keywBlock i w b).offset = b.offset := rfl
@[simp] theorem keywBlock_digest (i : BitVec 3) (w : Word) (b : Block) : (keywBlock i w b).digest = b.digest := rfl
@[simp] theorem keywBlock_digestValid (i : BitVec 3) (w : Word) (b : Block) : (keywBlock i w b).digestValid = b.digestValid := rfl
@[simp] theorem keywBlock_err (i : BitVec 3) (w : Word) (b : Block) : (keywBlock i w b).err = b.err := rfl
@[simp] theorem keywBlock_errSticky (i : BitVec 3) (w : Word) (b : Block) : (keywBlock i w b).errSticky = b.errSticky := rfl

@[simp] theorem sumBlock_configured (b : Block) : (sumBlock b).configured = b.configured := rfl
@[simp] theorem sumBlock_nn (b : Block) : (sumBlock b).nn = b.nn := rfl
@[simp] theorem sumBlock_kk (b : Block) : (sumBlock b).kk = b.kk := rfl
@[simp] theorem sumBlock_kstage (b : Block) : (sumBlock b).kstage = b.kstage := rfl
@[simp] theorem sumBlock_ckey (b : Block) : (sumBlock b).ckey = b.ckey := rfl
@[simp] theorem sumBlock_h (b : Block) : (sumBlock b).h = b.h := rfl
@[simp] theorem sumBlock_t (b : Block) : (sumBlock b).t = b.t := rfl
@[simp] theorem sumBlock_buf (b : Block) : (sumBlock b).buf = b.buf := rfl
@[simp] theorem sumBlock_offset (b : Block) : (sumBlock b).offset = b.offset := rfl
@[simp] theorem sumBlock_digest (b : Block) : (sumBlock b).digest = streamDigest b := rfl
@[simp] theorem sumBlock_digestValid (b : Block) : (sumBlock b).digestValid = true := rfl
@[simp] theorem sumBlock_err (b : Block) : (sumBlock b).err = b.err := rfl
@[simp] theorem sumBlock_errSticky (b : Block) : (sumBlock b).errSticky = b.errSticky := rfl

@[simp] theorem clearDigestValidIfBytes_configured (n : BitVec 3) (b : Block) : (clearDigestValidIfBytes n b).configured = b.configured := rfl
@[simp] theorem clearDigestValidIfBytes_nn (n : BitVec 3) (b : Block) : (clearDigestValidIfBytes n b).nn = b.nn := rfl
@[simp] theorem clearDigestValidIfBytes_kk (n : BitVec 3) (b : Block) : (clearDigestValidIfBytes n b).kk = b.kk := rfl
@[simp] theorem clearDigestValidIfBytes_kstage (n : BitVec 3) (b : Block) : (clearDigestValidIfBytes n b).kstage = b.kstage := rfl
@[simp] theorem clearDigestValidIfBytes_ckey (n : BitVec 3) (b : Block) : (clearDigestValidIfBytes n b).ckey = b.ckey := rfl
@[simp] theorem clearDigestValidIfBytes_h (n : BitVec 3) (b : Block) : (clearDigestValidIfBytes n b).h = b.h := rfl
@[simp] theorem clearDigestValidIfBytes_t (n : BitVec 3) (b : Block) : (clearDigestValidIfBytes n b).t = b.t := rfl
@[simp] theorem clearDigestValidIfBytes_buf (n : BitVec 3) (b : Block) : (clearDigestValidIfBytes n b).buf = b.buf := rfl
@[simp] theorem clearDigestValidIfBytes_offset (n : BitVec 3) (b : Block) : (clearDigestValidIfBytes n b).offset = b.offset := rfl
@[simp] theorem clearDigestValidIfBytes_digest (n : BitVec 3) (b : Block) : (clearDigestValidIfBytes n b).digest = b.digest := rfl
@[simp] theorem clearDigestValidIfBytes_digestValid (n : BitVec 3) (b : Block) : (clearDigestValidIfBytes n b).digestValid = (b.digestValid && decide (n = 0)) := rfl
@[simp] theorem clearDigestValidIfBytes_err (n : BitVec 3) (b : Block) : (clearDigestValidIfBytes n b).err = b.err := rfl
@[simp] theorem clearDigestValidIfBytes_errSticky (n : BitVec 3) (b : Block) : (clearDigestValidIfBytes n b).errSticky = b.errSticky := rfl

@[simp] theorem ErrorKind.code_invalidParameter : ErrorKind.invalidParameter.code = 1 := rfl
@[simp] theorem ErrorKind.code_illegalCommand : ErrorKind.illegalCommand.code = 2 := rfl
@[simp] theorem ErrorKind.code_notConfigured : ErrorKind.notConfigured.code = 3 := rfl

/-! The context operations, element by element. -/

@[simp] theorem contextInit_configured (b : Block) : (contextInit b).configured = b.configured := rfl
@[simp] theorem contextInit_nn (b : Block) : (contextInit b).nn = b.nn := rfl
@[simp] theorem contextInit_kk (b : Block) : (contextInit b).kk = b.kk := rfl
@[simp] theorem contextInit_kstage (b : Block) : (contextInit b).kstage = b.kstage := rfl
@[simp] theorem contextInit_ckey (b : Block) : (contextInit b).ckey = b.ckey := rfl
@[simp] theorem contextInit_h (b : Block) : (contextInit b).h = initialChaining b.nn b.kk := rfl
@[simp] theorem contextInit_t (b : Block) : (contextInit b).t = 0 := rfl
@[simp] theorem contextInit_buf (b : Block) :
    (contextInit b).buf = if b.kk = 0 then Vector.replicate 64 0 else keyBlock b.ckey := rfl
@[simp] theorem contextInit_offset (b : Block) : (contextInit b).offset = if b.kk = 0 then 0 else 64 := rfl
@[simp] theorem contextInit_digest (b : Block) : (contextInit b).digest = Vector.replicate 8 0 := rfl
@[simp] theorem contextInit_digestValid (b : Block) : (contextInit b).digestValid = false := rfl
@[simp] theorem contextInit_err (b : Block) : (contextInit b).err = b.err := rfl
@[simp] theorem contextInit_errSticky (b : Block) : (contextInit b).errSticky = b.errSticky := rfl

@[simp] theorem initFail_configured (b : Block) : (initFail b).configured = false := rfl
@[simp] theorem initFail_nn (b : Block) : (initFail b).nn = 0 := rfl
@[simp] theorem initFail_kk (b : Block) : (initFail b).kk = 0 := rfl
@[simp] theorem initFail_kstage (b : Block) : (initFail b).kstage = b.kstage := rfl
@[simp] theorem initFail_ckey (b : Block) : (initFail b).ckey = Vector.replicate 32 0 := rfl
@[simp] theorem initFail_h (b : Block) : (initFail b).h = Vector.replicate 8 0 := rfl
@[simp] theorem initFail_t (b : Block) : (initFail b).t = 0 := rfl
@[simp] theorem initFail_buf (b : Block) : (initFail b).buf = Vector.replicate 64 0 := rfl
@[simp] theorem initFail_offset (b : Block) : (initFail b).offset = 0 := rfl
@[simp] theorem initFail_digest (b : Block) : (initFail b).digest = Vector.replicate 8 0 := rfl
@[simp] theorem initFail_digestValid (b : Block) : (initFail b).digestValid = false := rfl
@[simp] theorem initFail_err (b : Block) : (initFail b).err = b.err := rfl
@[simp] theorem initFail_errSticky (b : Block) : (initFail b).errSticky = b.errSticky := rfl

@[simp] theorem latchParameters_configured (nn kk : BitVec 6) (b : Block) : (latchParameters nn kk b).configured = true := rfl
@[simp] theorem latchParameters_nn (nn kk : BitVec 6) (b : Block) : (latchParameters nn kk b).nn = nn := rfl
@[simp] theorem latchParameters_kk (nn kk : BitVec 6) (b : Block) : (latchParameters nn kk b).kk = kk := rfl
@[simp] theorem latchParameters_kstage (nn kk : BitVec 6) (b : Block) : (latchParameters nn kk b).kstage = b.kstage := rfl
@[simp] theorem latchParameters_ckey (nn kk : BitVec 6) (b : Block) :
    (latchParameters nn kk b).ckey = latchedKey kk b.kstage := rfl
@[simp] theorem latchParameters_err (nn kk : BitVec 6) (b : Block) : (latchParameters nn kk b).err = b.err := rfl
@[simp] theorem latchParameters_errSticky (nn kk : BitVec 6) (b : Block) :
    (latchParameters nn kk b).errSticky = b.errSticky := rfl

@[simp] theorem compressFull_configured (b : Block) : (compressFull b).configured = b.configured := rfl
@[simp] theorem compressFull_nn (b : Block) : (compressFull b).nn = b.nn := rfl
@[simp] theorem compressFull_kk (b : Block) : (compressFull b).kk = b.kk := rfl
@[simp] theorem compressFull_kstage (b : Block) : (compressFull b).kstage = b.kstage := rfl
@[simp] theorem compressFull_ckey (b : Block) : (compressFull b).ckey = b.ckey := rfl
@[simp] theorem compressFull_h (b : Block) : (compressFull b).h = compress b.h b.buf (b.t + 64) false := rfl
@[simp] theorem compressFull_t (b : Block) : (compressFull b).t = b.t + 64 := rfl
@[simp] theorem compressFull_buf (b : Block) : (compressFull b).buf = Vector.replicate 64 0 := rfl
@[simp] theorem compressFull_offset (b : Block) : (compressFull b).offset = 0 := rfl
@[simp] theorem compressFull_digest (b : Block) : (compressFull b).digest = b.digest := rfl
@[simp] theorem compressFull_digestValid (b : Block) : (compressFull b).digestValid = b.digestValid := rfl
@[simp] theorem compressFull_err (b : Block) : (compressFull b).err = b.err := rfl
@[simp] theorem compressFull_errSticky (b : Block) : (compressFull b).errSticky = b.errSticky := rfl

@[simp] theorem storeByte_configured (x : Byte) (b : Block) : (storeByte x b).configured = b.configured := rfl
@[simp] theorem storeByte_nn (x : Byte) (b : Block) : (storeByte x b).nn = b.nn := rfl
@[simp] theorem storeByte_kk (x : Byte) (b : Block) : (storeByte x b).kk = b.kk := rfl
@[simp] theorem storeByte_kstage (x : Byte) (b : Block) : (storeByte x b).kstage = b.kstage := rfl
@[simp] theorem storeByte_ckey (x : Byte) (b : Block) : (storeByte x b).ckey = b.ckey := rfl
@[simp] theorem storeByte_h (x : Byte) (b : Block) : (storeByte x b).h = b.h := rfl
@[simp] theorem storeByte_t (x : Byte) (b : Block) : (storeByte x b).t = b.t := rfl
@[simp] theorem storeByte_buf (x : Byte) (b : Block) : (storeByte x b).buf = b.buf.setIfInBounds b.offset.toNat x := rfl
@[simp] theorem storeByte_offset (x : Byte) (b : Block) : (storeByte x b).offset = b.offset + 1 := rfl
@[simp] theorem storeByte_digest (x : Byte) (b : Block) : (storeByte x b).digest = b.digest := rfl
@[simp] theorem storeByte_digestValid (x : Byte) (b : Block) : (storeByte x b).digestValid = b.digestValid := rfl
@[simp] theorem storeByte_err (x : Byte) (b : Block) : (storeByte x b).err = b.err := rfl
@[simp] theorem storeByte_errSticky (x : Byte) (b : Block) : (storeByte x b).errSticky = b.errSticky := rfl

end Sys2Proof.Machine
end

