-- ==== Sys2Proof/Laws/Ops.lean ====
section
/-! SUPPORT. One spec lemma per shared operation: bytes and lanes, the vectors the operations build, how a byte is absorbed,
and how a transaction ends. Later proofs cite these and do not unfold the operations. -/

namespace Sys2Proof.Machine

/-! ## Bytes and lanes -/

theorem lane_getElem (w : Word) (j k : Nat) (hk : k < 8) : (lane w j)[k] = w.getLsbD (8 * j + k) := by
  simp [lane]

/-- Lane j of a little-endian word is its j-th byte. -/
theorem lane_le32 (b0 b1 b2 b3 : Byte) (j : Nat) (hj : j < 4) :
    lane (le32 b0 b1 b2 b3) j = [b0, b1, b2, b3][j] := by
  have hc : j = 0 ∨ j = 1 ∨ j = 2 ∨ j = 3 := by omega
  rcases hc with rfl | rfl | rfl | rfl <;> ext k hk <;> interval_cases k <;> simp [lane, le32]

@[simp] theorem lane_le32_0 (b0 b1 b2 b3 : Byte) : lane (le32 b0 b1 b2 b3) 0 = b0 := lane_le32 b0 b1 b2 b3 0 (by omega)
@[simp] theorem lane_le32_1 (b0 b1 b2 b3 : Byte) : lane (le32 b0 b1 b2 b3) 1 = b1 := lane_le32 b0 b1 b2 b3 1 (by omega)
@[simp] theorem lane_le32_2 (b0 b1 b2 b3 : Byte) : lane (le32 b0 b1 b2 b3) 2 = b2 := lane_le32 b0 b1 b2 b3 2 (by omega)
@[simp] theorem lane_le32_3 (b0 b1 b2 b3 : Byte) : lane (le32 b0 b1 b2 b3) 3 = b3 := lane_le32 b0 b1 b2 b3 3 (by omega)

/-- A word is the four bytes of its lanes. -/
@[simp] theorem le32_lane (w : Word) : le32 (lane w 0) (lane w 1) (lane w 2) (lane w 3) = w := by
  ext k hk
  interval_cases k <;> simp [le32, lane]

/-- Two words with the same four lanes are equal. -/
theorem word_ext_lane {v w : Word} (h : ∀ j < 4, lane v j = lane w j) : v = w := by
  rw [← le32_lane v, ← le32_lane w, h 0 (by omega), h 1 (by omega), h 2 (by omega), h 3 (by omega)]

@[simp] theorem lane_zero (j : Nat) : lane 0#32 j = 0#8 := by
  ext k hk
  simp [lane]

@[simp] theorem streamBytes_length (n : BitVec 3) (w : Word) : (streamBytes n w).length = n.toNat := by
  simp [streamBytes]

theorem streamBytes_getElem (n : BitVec 3) (w : Word) (j : Nat) (hj : j < (streamBytes n w).length) :
    (streamBytes n w)[j] = lane w j := by
  simp [streamBytes]

/-! ## Vectors the operations build -/

@[simp] theorem stageKeyWord_getElem (key : Vector Byte 32) (idx : BitVec 3) (w : Word) (k : Nat) (hk : k < 32) :
    (stageKeyWord key idx w)[k] = if k / 4 = idx.toNat then lane w (k % 4) else key[k] := by
  simp [stageKeyWord]

@[simp] theorem latchedKey_getElem (kk : BitVec 6) (key : Vector Byte 32) (j : Nat) (hj : j < 32) :
    (latchedKey kk key)[j] = if j < kk.toNat then key[j] else 0 := by
  simp [latchedKey]

@[simp] theorem keyBlock_getElem (key : Vector Byte 32) (j : Nat) (hj : j < 64) :
    (keyBlock key)[j] = if h : j < 32 then key[j] else 0 := by
  unfold keyBlock
  rw [Vector.getElem_cast, Vector.getElem_append]
  split <;> simp

@[simp] theorem finalBlock_getElem (b : Block) (k : Nat) (hk : k < 64) :
    (finalBlock b)[k] = if k < b.offset.toNat then b.buf[k] else 0 := by
  simp [finalBlock]

@[simp] theorem messageWords_getElem (block : Vector Byte 64) (i : Nat) (hi : i < 16) :
    (messageWords block)[i] = le32 block[4 * i] block[4 * i + 1] block[4 * i + 2] block[4 * i + 3] := by
  simp [messageWords]

@[simp] theorem digestWords_getElem (hf : Vector Word 8) (nn : BitVec 6) (i : Nat) (hi : i < 8) :
    (digestWords hf nn)[i] =
      le32 (digestByte nn i hf[i] 0) (digestByte nn i hf[i] 1) (digestByte nn i hf[i] 2) (digestByte nn i hf[i] 3) := by
  simp [digestWords]

/-- Lane j of DIGEST[i] is digest byte 4i + j (10_state.md R33). -/
theorem lane_digestWords (hf : Vector Word 8) (nn : BitVec 6) (i : Nat) (hi : i < 8) (j : Nat) (hj : j < 4) :
    lane (digestWords hf nn)[i] j = digestByte nn i hf[i] j := by
  have hc : j = 0 ∨ j = 1 ∨ j = 2 ∨ j = 3 := by omega
  rcases hc with rfl | rfl | rfl | rfl <;> simp

/-! ## How a transaction ends -/

theorem succeed_eq (b : Block) (s : State) : succeed b s = .next (s.answer b.recordOk (statusWord b.recordOk)) := rfl

theorem raiseError_eq (e : ErrorKind) (b : Block) (s : State) :
    raiseError e b s = .next (s.answer (b.recordError e) (statusWord (b.recordError e))) := rfl

theorem whenConfigured_of_configured {s : State} (run : State → Outcome) (h : s.configured = true) :
    whenConfigured run s = run s := by
  simp [whenConfigured, h]

theorem whenConfigured_of_not {s : State} (run : State → Outcome) (h : s.configured = false) :
    whenConfigured run s = raiseError .notConfigured s.toBlock s := by
  simp [whenConfigured, h]

/-! ## Starting a context -/

/-- What ContextInit leaves of the stream depends on NN, KK and CKEY alone (41_construct.md R135). -/
theorem contextInit_sameStream {a b : Block} (hn : a.nn = b.nn) (hk : a.kk = b.kk) (hc : a.ckey = b.ckey) :
    (contextInit a).SameStream (contextInit b) := by
  constructor <;> simp only [contextInit_h, contextInit_t, contextInit_buf, contextInit_offset] <;>
    rw [hk] <;> first | rw [hn] | rw [hc]

/-! ## Absorbing -/

theorem absorb_of_full {b : Block} (h : b.offset = 64) (x : Byte) : absorb b x = storeByte x (compressFull b) := by
  simp [absorb, h]

theorem absorb_of_not_full {b : Block} (h : b.offset ≠ 64) (x : Byte) : absorb b x = storeByte x b := by
  rw [absorb, if_neg h]

/-- Absorbing touches the stream only: the other nine elements stand. -/
theorem absorb_frame (b : Block) (x : Byte) :
    (absorb b x).configured = b.configured ∧ (absorb b x).nn = b.nn ∧ (absorb b x).kk = b.kk ∧
      (absorb b x).kstage = b.kstage ∧ (absorb b x).ckey = b.ckey ∧ (absorb b x).digest = b.digest ∧
      (absorb b x).digestValid = b.digestValid ∧ (absorb b x).err = b.err ∧ (absorb b x).errSticky = b.errSticky := by
  unfold absorb
  split <;> simp

theorem absorbAll_nil (b : Block) : absorbAll b [] = b := rfl

theorem absorbAll_cons (b : Block) (x : Byte) (xs : List Byte) : absorbAll b (x :: xs) = absorbAll (absorb b x) xs := rfl

theorem absorbAll_append (b : Block) (xs ys : List Byte) : absorbAll b (xs ++ ys) = absorbAll (absorbAll b xs) ys := by
  simp [absorbAll, List.foldl_append]

theorem absorbAll_frame (b : Block) (xs : List Byte) :
    (absorbAll b xs).configured = b.configured ∧ (absorbAll b xs).nn = b.nn ∧ (absorbAll b xs).kk = b.kk ∧
      (absorbAll b xs).kstage = b.kstage ∧ (absorbAll b xs).ckey = b.ckey ∧ (absorbAll b xs).digest = b.digest ∧
      (absorbAll b xs).digestValid = b.digestValid ∧ (absorbAll b xs).err = b.err ∧
      (absorbAll b xs).errSticky = b.errSticky := by
  induction xs generalizing b with
  | nil => simp [absorbAll_nil]
  | cons x xs ih =>
    obtain ⟨h1, h2, h3, h4, h5, h6, h7, h8, h9⟩ := absorb_frame b x
    simpa [absorbAll_cons, h1, h2, h3, h4, h5, h6, h7, h8, h9] using ih (absorb b x)

/-- After a byte the buffer holds at least that byte and at most one block (42_write.md R150). -/
theorem absorb_offset {b : Block} (h : b.offset.toNat ≤ 64) (x : Byte) :
    (absorb b x).offset.toNat = (if b.offset = 64 then 1 else b.offset.toNat + 1) ∧ (absorb b x).offset.toNat ≤ 64 := by
  by_cases hf : b.offset = 64
  · simp [absorb_of_full hf, hf]
  · have hne : b.offset.toNat ≠ 64 := fun e => hf (BitVec.eq_of_toNat_eq (by simpa using e))
    have hadd : (b.offset + 1).toNat = b.offset.toNat + 1 := by simp [BitVec.toNat_add]; omega
    rw [absorb_of_not_full hf, storeByte_offset, hadd, if_neg hf]
    omega

/-- The stream of the result depends on the stream of the argument alone. -/
theorem absorb_sameStream {a b : Block} (h : a.SameStream b) (x : Byte) : (absorb a x).SameStream (absorb b x) := by
  obtain ⟨hh, ht, hb, ho⟩ := h
  by_cases hf : b.offset = 64
  · rw [absorb_of_full hf, absorb_of_full (ho.trans hf)]
    constructor <;> simp [hh, ht, hb]
  · rw [absorb_of_not_full hf, absorb_of_not_full (ho ▸ hf)]
    constructor <;> simp [hh, ht, hb, ho]

theorem absorbAll_sameStream {a b : Block} (h : a.SameStream b) (xs : List Byte) :
    (absorbAll a xs).SameStream (absorbAll b xs) := by
  induction xs generalizing a b with
  | nil => exact h
  | cons x xs ih => exact ih (absorb_sameStream h x)

/-- Storing one byte below the end of the buffer moves OFFSET by one. -/
theorem storeByte_offset_toNat {b : Block} (h : b.offset.toNat < 64) (x : Byte) :
    (storeByte x b).offset.toNat = b.offset.toNat + 1 := by
  simp [BitVec.toNat_add]; omega

/-- Bytes that fit the buffer are appended to it in order, and nothing is compressed (42_write.md R151, R152). -/
theorem absorbAll_within (xs : List Byte) : ∀ {b : Block}, b.offset.toNat + xs.length ≤ 64 →
    (absorbAll b xs).offset.toNat = b.offset.toNat + xs.length ∧ (absorbAll b xs).h = b.h ∧ (absorbAll b xs).t = b.t ∧
      ∀ k (hk : k < 64), (absorbAll b xs).buf[k] =
        if h : b.offset.toNat ≤ k ∧ k < b.offset.toNat + xs.length then xs[k - b.offset.toNat]'(by omega) else b.buf[k] := by
  induction xs with
  | nil => intro b h; refine ⟨rfl, rfl, rfl, ?_⟩; intro k hk; rw [dif_neg (by simp)]; rfl
  | cons x xs ih =>
    intro b h
    simp only [List.length_cons] at h
    have hf : b.offset ≠ 64 := by intro e; rw [e] at h; simp at h
    have ho := storeByte_offset_toNat (b := b) (by omega) x
    obtain ⟨h1, h2, h3, h4⟩ := ih (b := storeByte x b) (by omega)
    rw [absorbAll_cons, absorb_of_not_full hf]
    refine ⟨by rw [h1, ho, List.length_cons]; omega, h2, h3, ?_⟩
    intro k hk
    rw [h4 k hk]
    simp only [ho, storeByte_buf, Vector.getElem_setIfInBounds]
    by_cases e : k = b.offset.toNat
    · subst e; simp
    · by_cases h5 : b.offset.toNat ≤ k ∧ k < b.offset.toNat + (x :: xs).length
      · rw [dif_pos h5, dif_pos (by simp only [List.length_cons] at h5; omega), List.getElem_cons, dif_neg (by omega)]
        congr 1
      · rw [dif_neg h5, dif_neg (by simp only [List.length_cons] at h5; omega), if_neg (by omega)]

/-- WRITE touches the stream and DIGEST_VALID only. -/
theorem writeBlock_frame (n : BitVec 3) (w : Word) (b : Block) :
    (writeBlock n w b).configured = b.configured ∧ (writeBlock n w b).nn = b.nn ∧ (writeBlock n w b).kk = b.kk ∧
      (writeBlock n w b).kstage = b.kstage ∧ (writeBlock n w b).ckey = b.ckey ∧ (writeBlock n w b).digest = b.digest ∧
      (writeBlock n w b).digestValid = (b.digestValid && decide (n = 0)) ∧ (writeBlock n w b).err = b.err ∧
      (writeBlock n w b).errSticky = b.errSticky := by
  obtain ⟨h1, h2, h3, h4, h5, h6, h7, h8, h9⟩ := absorbAll_frame b (streamBytes n w)
  simp [writeBlock, h1, h2, h3, h4, h5, h6, h7, h8, h9]

/-- The stream after WRITE is the stream after its bytes. -/
theorem writeBlock_sameStream (n : BitVec 3) (w : Word) (b : Block) :
    (writeBlock n w b).SameStream (absorbAll b (streamBytes n w)) := ⟨rfl, rfl, rfl, rfl⟩

/-! ## What the digest depends on -/

theorem streamDigest_congr {a b : Block} (hs : a.SameStream b) (hn : a.nn = b.nn) : streamDigest a = streamDigest b := by
  obtain ⟨hh, ht, hb, ho⟩ := hs
  have hfb : finalBlock a = finalBlock b := by unfold finalBlock; rw [hb, ho]
  simp [streamDigest, finalState, totalBytes, hh, ht, ho, hn, hfb]

/-! ## READ addresses -/

/-- Exactly the ten defined addresses name a register, so READ and the decoder agree on which exist. -/
theorem readRegisterAt_isSome (addr : BitVec 8) : (readRegisterAt addr).isSome = readAddressOk addr := by
  revert addr; decide

end Sys2Proof.Machine
end

