-- ==== Sys2Proof/Laws/PerInstr.lean ====
section
/-! SUPPORT. Statements made for each command: that its encoding is an instance of its own row of the opcode table and of no
other row (30_encoding.md R79). -/

namespace Sys2Proof.Laws.TablePattern

/-- The rows of R79, in the table's order: (match, mask). -/
def rows : Vector (Word × Word) 6 := #v[
  (0x00000001, 0xFFC0C0FF), (0x00000002, 0xFFFFF8FF), (0x00000003, 0xFFFFF8FF),
  (0x00000004, 0xFFFFFFFF), (0x00000005, 0xFFFFFFFF), (0x00000006, 0xFFFF00FF)]

/-- The row of a command. -/
def rowOf : Instr → Fin 6
  | .init _ _ => 0
  | .keyw _ => 1
  | .write _ => 2
  | .sum => 3
  | .reset => 4
  | .read _ => 5

/-- The encoding is an instance of its own row, `(cmd & mask) == match`, and of no other. -/
def Statement (i : Instr) : Prop := ∀ k : Fin 6, encode i &&& rows[k].2 = rows[k].1 ↔ k = rowOf i

/-- No word is an instance of two rows: two rows differ in a bit that both fix. -/
theorem rows_disjoint : rows.toList.Pairwise fun a b => a.1 &&& b.2 ≠ b.1 &&& a.2 := by decide

/-- The low byte of an encoding, which every row's mask covers, names the row. -/
theorem encode_lowByte (i : Instr) : encode i &&& 0xFF#32 = BitVec.ofNat 32 ((rowOf i).val + 1) := by
  cases i <;> ext k hk <;> interval_cases k <;> simp [encode, rowOf]

/-- Being an instance of the own row is enough: every other row fixes another low byte. -/
theorem statement_of_own (i : Instr) (h : encode i &&& rows[rowOf i].2 = rows[rowOf i].1) : Statement i := by
  have low : ∀ k : Fin 6, rows[k].2 &&& 0xFF#32 = 0xFF#32 ∧ rows[k].1 &&& 0xFF#32 = BitVec.ofNat 32 (k.val + 1) := by decide
  have inj : ∀ k j : Fin 6, BitVec.ofNat 32 (k.val + 1) = BitVec.ofNat 32 (j.val + 1) → k = j := by decide
  refine fun k => ⟨fun he => inj _ _ ?_, fun hk => hk ▸ h⟩
  rw [← encode_lowByte, ← (low k).2, ← he, BitVec.and_assoc, (low k).1]

theorem init (nn kk : BitVec 6) : Statement (.init nn kk) :=
  statement_of_own _ (by ext k hk; interval_cases k <;> simp [encode, rows, rowOf])

theorem keyw (idx : BitVec 3) : Statement (.keyw idx) :=
  statement_of_own _ (by ext k hk; interval_cases k <;> simp [encode, rows, rowOf])

theorem write (n : BitVec 3) : Statement (.write n) :=
  statement_of_own _ (by ext k hk; interval_cases k <;> simp [encode, rows, rowOf])

theorem sum : Statement .sum := statement_of_own _ (by decide)

theorem reset : Statement .reset := statement_of_own _ (by decide)

theorem read (addr : BitVec 8) : Statement (.read addr) :=
  statement_of_own _ (by ext k hk; interval_cases k <;> simp [encode, rows, rowOf])

end Sys2Proof.Laws.TablePattern
end

