-- ==== Sys2Proof/Laws/Step.lean ====
section
/-! SUPPORT. What a command and a step can do, said once: `exec` always returns one result word and leaves the port's inbox
and data word alone, and a step takes exactly the oldest event of the inbox. -/

namespace Sys2Proof.Machine

theorem step_of_empty {s : State} (h : s.inbox = []) : step s = .next s := by
  simp [step, h]

theorem step_of_transaction {s : State} {cmd wdata : Word} {rest : List HostEvent}
    (h : s.inbox = .transaction cmd wdata :: rest) : step s = runCommand cmd (s.accept wdata rest) := by
  simp [step, h, takeEvent]

theorem step_of_hardwareReset {s : State} {rest : List HostEvent} (h : s.inbox = .hardwareReset :: rest) :
    step s = .next (hardwareReset { s with inbox := rest }) := by
  simp [step, h, takeEvent]

theorem runCommand_of_ok {cmd : Word} {i : Instr} (h : decode cmd = .ok i) (s : State) : runCommand cmd s = exec i s := by
  simp [runCommand, h]

theorem runCommand_of_error {cmd : Word} {e : DecodeError} (h : decode cmd = .error e) (s : State) :
    runCommand cmd s = raiseError .illegalCommand s.toBlock s := by
  simp [runCommand, h]

/-- INIT's range check in numbers (41_construct.md R133). -/
theorem initLengthsOk_iff (nn kk : BitVec 6) :
    initLengthsOk nn kk = true ↔ 1 ≤ nn.toNat ∧ nn.toNat ≤ 32 ∧ kk.toNat ≤ 32 := by
  simp [initLengthsOk, Config.minDigestBytes, Config.maxDigestBytes, Config.maxKeyBytes, and_assoc]

/-- WRITE's extra condition in numbers (30_encoding.md R79). -/
theorem writeCountOk_iff (n : BitVec 3) : writeCountOk n = true ↔ n.toNat ≤ 4 := by
  simp [writeCountOk, Config.maxWriteBytes]

theorem runCommands_cons (i : Instr) (w : Word) (cs : List (Instr × Word)) (s : State) :
    runCommands ((i, w) :: cs) s =
      match exec i { s with wdata := w } with
      | .next t => runCommands cs t
      | .fault r => .fault r
      | .refused r => .refused r := rfl

/-! The meanings as equations, one case per line. -/

theorem exec_keyw (idx : BitVec 3) (s : State) :
    exec (.keyw idx) s = succeed (keywBlock idx s.wdata s.toBlock) s := rfl

theorem exec_init_ok {nn kk : BitVec 6} (h : initLengthsOk nn kk = true) (s : State) :
    exec (.init nn kk) s = succeed (contextInit (latchParameters nn kk s.toBlock)) s := by
  simp [exec, execInit, h]

theorem exec_init_fail {nn kk : BitVec 6} (h : initLengthsOk nn kk = false) (s : State) :
    exec (.init nn kk) s = raiseError .invalidParameter (initFail s.toBlock) s := by
  simp [exec, execInit, h]

theorem exec_write_ok {n : BitVec 3} {s : State} (hn : n.toNat ≤ 4) (hc : s.configured = true) :
    exec (.write n) s = succeed (writeBlock n s.wdata s.toBlock) s := by
  simp [exec, execWrite, writeStream, hn, whenConfigured_of_configured _ hc]

theorem exec_write_unconfigured {n : BitVec 3} {s : State} (hn : n.toNat ≤ 4) (hc : s.configured = false) :
    exec (.write n) s = raiseError .notConfigured s.toBlock s := by
  simp [exec, execWrite, writeStream, hn, whenConfigured_of_not _ hc]

theorem exec_write_ill {n : BitVec 3} (hn : ¬ n.toNat ≤ 4) (s : State) :
    exec (.write n) s = raiseError .illegalCommand s.toBlock s := by
  simp [exec, execWrite, hn]

theorem exec_sum_ok {s : State} (hc : s.configured = true) : exec .sum s = succeed (sumBlock s.toBlock) s := by
  simp [exec, execSum, whenConfigured_of_configured _ hc]

theorem exec_sum_unconfigured {s : State} (hc : s.configured = false) :
    exec .sum s = raiseError .notConfigured s.toBlock s := by
  simp [exec, execSum, whenConfigured_of_not _ hc]

theorem exec_reset_ok {s : State} (hc : s.configured = true) : exec .reset s = succeed (contextInit s.toBlock) s := by
  simp [exec, execReset, whenConfigured_of_configured _ hc]

theorem exec_reset_unconfigured {s : State} (hc : s.configured = false) :
    exec .reset s = raiseError .notConfigured s.toBlock s := by
  simp [exec, execReset, whenConfigured_of_not _ hc]

theorem exec_read_some {addr : BitVec 8} {r : ReadRegister} (h : readRegisterAt addr = some r) (s : State) :
    exec (.read addr) s = .next (s.answer s.toBlock (readRegister s.toBlock r)) := by
  simp [exec, execRead, h]

theorem exec_read_none {addr : BitVec 8} (h : readRegisterAt addr = none) (s : State) :
    exec (.read addr) s = raiseError .illegalCommand s.toBlock s := by
  simp [exec, execRead, h]

/-- A word that decodes gives a well-formed command (30_encoding.md R78). -/
theorem wellFormed_of_decode {cmd : Word} {i : Instr} (h : decode cmd = .ok i) : i.wellFormed = true := by
  unfold decode at h
  split at h
  all_goals (try simp only [decodeInit, decodeKeyw, decodeWrite, decodeSum, decodeReset, decodeRead] at h)
  all_goals (repeat' split at h)
  all_goals first | (cases h; done) | (cases h; simp_all [Instr.wellFormed])

/-- A WRITE or READ that decodes has an operand the encoding admits. -/
theorem write_of_decode {cmd : Word} {n : BitVec 3} (h : decode cmd = .ok (.write n)) : n.toNat ≤ 4 :=
  (writeCountOk_iff n).1 (wellFormed_of_decode h)

theorem read_of_decode {cmd : Word} {addr : BitVec 8} (h : decode cmd = .ok (.read addr)) :
    readRegisterAt addr ≠ none := by
  have hw := wellFormed_of_decode h
  simp only [Instr.wellFormed, ← readRegisterAt_isSome] at hw
  intro hn
  simp [hn] at hw

/-- What a command can do to the block, said once. The result word is STATUS of the block left, but for a READ that names a
register. -/
inductive CommandEffect (s : State) : Instr → Block → Word → Prop where
  | keyw (idx : BitVec 3) :
      CommandEffect s (.keyw idx) (keywBlock idx s.wdata s.toBlock).recordOk
        (statusWord (keywBlock idx s.wdata s.toBlock).recordOk)
  | init (nn kk : BitVec 6) (ok : initLengthsOk nn kk = true) :
      CommandEffect s (.init nn kk) (contextInit (latchParameters nn kk s.toBlock)).recordOk
        (statusWord (contextInit (latchParameters nn kk s.toBlock)).recordOk)
  | initFails (nn kk : BitVec 6) (bad : initLengthsOk nn kk = false) :
      CommandEffect s (.init nn kk) ((initFail s.toBlock).recordError .invalidParameter)
        (statusWord ((initFail s.toBlock).recordError .invalidParameter))
  | write (n : BitVec 3) (hn : n.toNat ≤ 4) (hc : s.configured = true) :
      CommandEffect s (.write n) (writeBlock n s.wdata s.toBlock).recordOk
        (statusWord (writeBlock n s.wdata s.toBlock).recordOk)
  | sum (hc : s.configured = true) :
      CommandEffect s .sum (sumBlock s.toBlock).recordOk (statusWord (sumBlock s.toBlock).recordOk)
  | reset (hc : s.configured = true) :
      CommandEffect s .reset (contextInit s.toBlock).recordOk (statusWord (contextInit s.toBlock).recordOk)
  | read (addr : BitVec 8) (r : ReadRegister) (hr : readRegisterAt addr = some r) :
      CommandEffect s (.read addr) s.toBlock (readRegister s.toBlock r)
  | writeUnconfigured (n : BitVec 3) (hn : n.toNat ≤ 4) (hc : s.configured = false) :
      CommandEffect s (.write n) (s.toBlock.recordError .notConfigured) (statusWord (s.toBlock.recordError .notConfigured))
  | sumUnconfigured (hc : s.configured = false) :
      CommandEffect s .sum (s.toBlock.recordError .notConfigured) (statusWord (s.toBlock.recordError .notConfigured))
  | resetUnconfigured (hc : s.configured = false) :
      CommandEffect s .reset (s.toBlock.recordError .notConfigured) (statusWord (s.toBlock.recordError .notConfigured))
  | writeIllFormed (n : BitVec 3) (hn : ¬ n.toNat ≤ 4) :
      CommandEffect s (.write n) (s.toBlock.recordError .illegalCommand)
        (statusWord (s.toBlock.recordError .illegalCommand))
  | readIllFormed (addr : BitVec 8) (hr : readRegisterAt addr = none) :
      CommandEffect s (.read addr) (s.toBlock.recordError .illegalCommand)
        (statusWord (s.toBlock.recordError .illegalCommand))

/-- A command always completes: it leaves the block in one of the states of `CommandEffect` and returns one result word. -/
theorem exec_effect (i : Instr) (s : State) : ∃ b w, exec i s = .next (s.answer b w) ∧ CommandEffect s i b w := by
  cases i with
  | init nn kk =>
    cases h : initLengthsOk nn kk with
    | true => exact ⟨_, _, exec_init_ok h s, .init nn kk h⟩
    | false => exact ⟨_, _, exec_init_fail h s, .initFails nn kk h⟩
  | keyw idx => exact ⟨_, _, exec_keyw idx s, .keyw idx⟩
  | write n =>
    by_cases hn : n.toNat ≤ 4
    · cases hc : s.configured with
      | true => exact ⟨_, _, exec_write_ok hn hc, .write n hn hc⟩
      | false => exact ⟨_, _, exec_write_unconfigured hn hc, .writeUnconfigured n hn hc⟩
    · exact ⟨_, _, exec_write_ill hn s, .writeIllFormed n hn⟩
  | sum =>
    cases hc : s.configured with
    | true => exact ⟨_, _, exec_sum_ok hc, .sum hc⟩
    | false => exact ⟨_, _, exec_sum_unconfigured hc, .sumUnconfigured hc⟩
  | reset =>
    cases hc : s.configured with
    | true => exact ⟨_, _, exec_reset_ok hc, .reset hc⟩
    | false => exact ⟨_, _, exec_reset_unconfigured hc, .resetUnconfigured hc⟩
  | read addr =>
    cases h : readRegisterAt addr with
    | some r => exact ⟨_, _, exec_read_some h s, .read addr r h⟩
    | none => exact ⟨_, _, exec_read_none h s, .readIllFormed addr h⟩

/-- The one effect of a command, read off a next state. -/
theorem exec_inv {i : Instr} {s t : State} (h : exec i s = .next t) : ∃ b w, t = s.answer b w ∧ CommandEffect s i b w := by
  obtain ⟨b, w, he, hb⟩ := exec_effect i s
  rw [he] at h
  injection h with h
  exact ⟨b, w, h.symm, hb⟩

/-- Everything a step can do. -/
theorem step_cases {s t : State} (h : step s = .next t) :
    (s.inbox = [] ∧ t = s) ∨
    (∃ rest, s.inbox = .hardwareReset :: rest ∧ t = hardwareReset { s with inbox := rest }) ∨
    (∃ cmd wdata rest e, s.inbox = .transaction cmd wdata :: rest ∧ decode cmd = .error e ∧
      raiseError .illegalCommand s.toBlock (s.accept wdata rest) = .next t) ∨
    (∃ cmd wdata rest i, s.inbox = .transaction cmd wdata :: rest ∧ decode cmd = .ok i ∧
      exec i (s.accept wdata rest) = .next t) := by
  cases hq : s.inbox with
  | nil => rw [step_of_empty hq] at h; injection h with h; exact .inl ⟨rfl, h.symm⟩
  | cons e rest =>
    cases e with
    | hardwareReset =>
      rw [step_of_hardwareReset hq] at h; injection h with h; exact .inr (.inl ⟨rest, rfl, h.symm⟩)
    | transaction cmd wdata =>
      rw [step_of_transaction hq] at h
      cases hd : decode cmd with
      | error e => rw [runCommand_of_error hd] at h; exact .inr (.inr (.inl ⟨cmd, wdata, rest, e, rfl, hd, h⟩))
      | ok i => rw [runCommand_of_ok hd] at h; exact .inr (.inr (.inr ⟨cmd, wdata, rest, i, rfl, hd, h⟩))

end Sys2Proof.Machine
end

