-- ==== Sys2Proof/Tests/Slice0.lean ====
section
/-! SUPPORT. Tests and witnesses. Expected values are the spec's: the encodings of 30_encoding.md R80 and the vectors of
95_test_vectors.md, named beside each test. The witnesses show, for each obligation with hypotheses, a concrete input that
meets all of them. -/

namespace Sys2Proof.Tests

open Sys2Proof Sys2Proof.Machine

/-! ## Helpers -/

/-- The outcome is a next state that meets `p`. -/
def nextHas (o : Outcome) (p : State → Bool) : Bool :=
  match o with
  | .next t => p t
  | .fault _ => false
  | .refused _ => false

theorem exists_of_nextHas {o : Outcome} {p : State → Bool} (h : nextHas o p = true) : ∃ t, o = .next t ∧ p t = true := by
  cases o with
  | next t => exact ⟨t, rfl, h⟩
  | fault r => cases h
  | refused r => cases h

/-- The host has issued one transaction. -/
def issued (s : State) (cmd wdata : Word) : State := { s with inbox := [.transaction cmd wdata] }

/-- The last result word of a state. -/
def rdata (t : State) : Option Word := t.results.getLast?

/-- Hardware reset followed by INIT 32,0 (95_test_vectors.md, table INIT-B). -/
def ready : State := { State.reset with configured := true, nn := 32, h := initialChaining 32 0 }

/-- A buffer whose first n bytes are 00, 01, 02, ... ("seq n"). -/
def seqBuffer (n : Nat) : Vector Byte 64 := (Vector.range 64).map fun k => if k < n then BitVec.ofNat 8 k else 0

/-- A buffer that starts with "abc". -/
def abcBuffer : Vector Byte 64 := (((Vector.replicate 64 (0 : Byte)).set 0 0x61).set 1 0x62).set 2 0x63

/-! ## Well-formedness: the check refuses an ill-formed term of each kind -/

theorem test_wellFormed_refuses_write_five : (Instr.write 5).wellFormed = false := by decide
theorem test_wellFormed_refuses_write_seven : (Instr.write 7).wellFormed = false := by decide
theorem test_wellFormed_refuses_read_gaps :
    (Instr.read 0x02).wellFormed = false ∧ (Instr.read 0x0F).wellFormed = false ∧ (Instr.read 0x18).wellFormed = false ∧
      (Instr.read 0xFF).wellFormed = false := by decide
theorem test_wellFormed_admits_bounds :
    (Instr.write 4).wellFormed = true ∧ (Instr.read 0x01).wellFormed = true ∧ (Instr.read 0x10).wellFormed = true ∧
      (Instr.read 0x17).wellFormed = true ∧ (Instr.init 63 63).wellFormed = true := by decide

/-! ## Decoding: words written out from 30_encoding.md R72 to R75 and R80 -/

/-- Format P, KK = 100000 at 21:16, NN = 010000 at 13:8. -/
theorem test_decode_init : decode 0b00000000001000000001000000000001#32 = .ok (.init 16 32) := by decide
/-- Format I, IDX = 111 at 10:8. -/
theorem test_decode_keyw : decode 0b00000000000000000000011100000010#32 = .ok (.keyw 7) := by decide
/-- Format I, N = 100 at 10:8. -/
theorem test_decode_write : decode 0b00000000000000000000010000000011#32 = .ok (.write 4) := by decide
/-- Format N. -/
theorem test_decode_sum : decode 0b00000000000000000000000000000100#32 = .ok .sum := by decide
/-- Format N. -/
theorem test_decode_reset : decode 0b00000000000000000000000000000101#32 = .ok .reset := by decide
/-- Format A, ADDR = 00010111 at 15:8. -/
theorem test_decode_read : decode 0b00000000000000000001011100000110#32 = .ok (.read 0x17) := by decide
/-- 60_exceptions.md R211 (a). -/
theorem test_decode_unused_opcodes :
    decode 0x00000000#32 = .error .unusedOpcode ∧ decode 0x00000007#32 = .error .unusedOpcode ∧
      decode 0x0000000F#32 = .error .unusedOpcode := by decide
/-- 60_exceptions.md R211 (b), one word per format and two positions (95_test_vectors.md 3.1, 3.4, 3.6, 3.7). -/
theorem test_decode_reserved_bits :
    decode 0x00002081#32 = .error .reservedBitSet ∧ decode 0x00400001#32 = .error .reservedBitSet ∧
      decode 0x00000802#32 = .error .reservedBitSet ∧ decode 0x00000B03#32 = .error .reservedBitSet ∧
      decode 0x00000014#32 = .error .reservedBitSet ∧ decode 0x80000005#32 = .error .reservedBitSet ∧
      decode 0x00010006#32 = .error .reservedBitSet := by decide
/-- 60_exceptions.md R211 (c) and (d). -/
theorem test_decode_bad_operands :
    decode 0x00000503#32 = .error .writeCountTooLarge ∧ decode 0x00000206#32 = .error .undefinedReadAddress ∧
      decode 0x00000F06#32 = .error .undefinedReadAddress ∧ decode 0x00001806#32 = .error .undefinedReadAddress := by decide
/-- 30_encoding.md R80, the encoder's side. -/
theorem test_encode_examples :
    encode (.init 16 32) = 0x00201001#32 ∧ encode (.keyw 7) = 0x00000702#32 ∧ encode (.write 3) = 0x00000303#32 ∧
      encode .sum = 0x00000004#32 ∧ encode .reset = 0x00000005#32 ∧ encode (.read 0x17) = 0x00001706#32 := by decide
theorem test_decodeTableWord :
    decodeTableWord 32 0x00202001 = some (.init 32 32) ∧ decodeTableWord 32 0x00000006 = some (.read 0x00) ∧
      decodeTableWord 32 0 = none := by decide
/-- From reset, the table's word is the very next command: INIT 32,0 returns 0x00000001 (95_test_vectors.md, INIT-B). -/
theorem test_withFetchWord :
    nextHas (step (State.reset.withFetchWord 32 0x00002001)) (fun t => rdata t == some 0x00000001 && t.nn == 32) = true := by
  decide

/-! ## One step per test (95_test_vectors.md sections 3.1 to 3.7) -/

/-- 41_construct.md R131's example: KSTAGE[4..7] = 04 05 06 07, rdata = STATUS. -/
theorem test_keyw_stages_word_one :
    nextHas (step (issued State.reset 0x00000102 0x07060504)) (fun t =>
      t.kstage[4] == 0x04 && t.kstage[5] == 0x05 && t.kstage[6] == 0x06 && t.kstage[7] == 0x07 && t.kstage[3] == 0 &&
        t.kstage[8] == 0 && rdata t == some 0x00000000) = true := by decide
/-- Section 3.1 row 3: reserved bit 11 set, nothing staged. -/
theorem test_keyw_reserved_bit :
    nextHas (step (issued State.reset 0x00000802 0x11111111)) (fun t => t.kstage[8] == 0 && rdata t == some 0x00000024) =
      true := by decide
/-- INIT-B row 32,1 over a staged key whose second byte is stale: h[0], the pending key block, no byte beyond KK. -/
theorem test_init_keyed :
    nextHas (step (issued { State.reset with kstage := ((Vector.replicate 32 (0 : Byte)).set 0 0x6B).set 1 0xFF }
        0x00012001 0)) (fun t =>
      t.h[0] == 0x6B08E747 && t.h[7] == 0x5BE0CD19 && t.offset == 64 && t.t == 0 && t.buf[0] == 0x6B && t.buf[1] == 0 &&
        t.ckey[1] == 0 && rdata t == some 0x00000001) = true := by decide
/-- Section 3.2, row 6 of the second table, and INIT-B row 32,33: the context is gone. -/
theorem test_init_out_of_range :
    nextHas (step (issued ready 0x00000001 0)) (fun t =>
      t.configured == false && t.nn == 0 && t.h[0] == 0 && rdata t == some 0x00000014) = true ∧
    nextHas (step (issued State.reset 0x00212001 0)) (fun t => rdata t == some 0x00000014) = true := by decide
/-- 42_write.md R151's example: "abc" at buf[0..2], lane 3 ignored. -/
theorem test_write_appends :
    nextHas (step (issued ready 0x00000303 0xFF636261)) (fun t =>
      t.buf == abcBuffer && t.offset == 3 && t.t == 0 && rdata t == some 0x00000001) = true := by decide
/-- Section 3.3, third way of the chunking table, with the h of the lazy-compression example: the compression falls between
two bytes of one WRITE. -/
theorem test_write_across_the_block_end :
    nextHas (step (issued { ready with buf := seqBuffer 62, offset := 62 } 0x00000403 0x41403F3E)) (fun t =>
      t.t == 64 && t.offset == 2 && t.buf[0] == 0x40 && t.buf[1] == 0x41 && t.buf[2] == 0 && t.h ==
        #v[0x69B86EDC, 0x9C74BB75, 0x25BD102E, 0x83F24029, 0x9A9D32C1, 0xA02250BB, 0x3AA0A774, 0xE4B93E1D]) = true := by
  decide +kernel
/-- Table DIG, case E1: the digest of "abc", and rdata 0x00000003. -/
theorem test_sum_abc :
    nextHas (step (issued { ready with buf := abcBuffer, offset := 3 } 0x00000004 0)) (fun t =>
      t.digest == #v[0x8C5E8C50, 0xE2147C32, 0xA32BA7E1, 0x2F45EB4E, 0x208B4537, 0x293AD69E, 0x4C9B994D, 0x82596786] &&
        rdata t == some 0x00000003) = true := by decide +kernel
/-- Table DIG, case E5: NN = 5 masks the second word to one byte. -/
theorem test_sum_masks_beyond_nn :
    nextHas (step (issued { ready with nn := 5, h := initialChaining 5 0 } 0x00000004 0)) (fun t =>
      t.digest == #v[0x5F70580C, 0x0000004F, 0, 0, 0, 0, 0, 0]) = true := by decide +kernel
/-- Section 3.5, rows 6 and 7: the key block is pending again from CKEY, not from KSTAGE, and DIGEST is zero. -/
theorem test_reset_restores_the_key_block :
    nextHas (step (issued { ready with
        kk := 1, ckey := (Vector.replicate 32 (0 : Byte)).set 0 0x6B, kstage := Vector.replicate 32 0xFF, t := 64,
        offset := 3, buf := abcBuffer, digest := Vector.replicate 8 1, digestValid := true, errSticky := true }
        0x00000005 0)) (fun t =>
      t.t == 0 && t.offset == 64 && t.buf[0] == 0x6B && t.buf[1] == 0 && t.h[0] == 0x6B08E747 &&
        t.digest == Vector.replicate 8 0 && rdata t == some 0x00000005) = true := by decide
/-- Section 3.7, rows 1 to 3: NotConfigured. -/
theorem test_not_configured :
    nextHas (step (issued State.reset 0x00000005 0)) (fun t => rdata t == some 0x00000034) = true ∧
    nextHas (step (issued State.reset 0x00000004 0)) (fun t => rdata t == some 0x00000034) = true ∧
    nextHas (step (issued State.reset 0x00000103 0x61)) (fun t => rdata t == some 0x00000034) = true := by decide
/-- Section 3.6: CONFIG after INIT 32,0, and a READ that does not overwrite ERR (section 3.7, row 13). -/
theorem test_read_config_and_status :
    nextHas (step (issued ready 0x00000106 0)) (fun t => rdata t == some 0x00000020) = true ∧
    nextHas (step (issued { State.reset with err := 2, errSticky := true } 0x00000006 0)) (fun t =>
      t.err == 2 && rdata t == some 0x00000024) = true := by decide
/-- DIGEST5 is word 5, and address 0x18 is IllegalCommand (section 3.6). -/
theorem test_read_digest_and_gap :
    nextHas (step (issued { ready with digest := #v[10, 11, 12, 13, 14, 15, 16, 17] } 0x00001506 0)) (fun t =>
      rdata t == some 15) = true ∧
    nextHas (step (issued ready 0x00001806 0)) (fun t => rdata t == some 0x00000025) = true := by decide
/-- Section 3.7, row 8: decode wins over the configuration check. -/
theorem test_priority_decode_first :
    nextHas (step (issued State.reset 0x00000503 0)) (fun t => rdata t == some 0x00000024) = true := by decide

/-! ## The compression core (95_test_vectors.md section 2) -/

/-- Section 2.1, the rotation table. -/
theorem test_rotr32 :
    rotr32 0x12345678 16 = 0x56781234 ∧ rotr32 0x12345678 12 = 0x67812345 ∧ rotr32 0x12345678 8 = 0x78123456 ∧
      rotr32 0x12345678 7 = 0xF02468AC ∧ rotr32 0x00000001 7 = 0x02000000 := by decide
/-- Section 2.1, G on small values. -/
theorem test_mix_small_values :
    let v := mix #v[1, 0, 0, 0, 2, 0, 0, 0, 3, 0, 0, 0, 4, 0, 0, 0] 0 4 8 12 5 6
    v[0] = 0x001000CE ∧ v[4] = 0x879C3839 ∧ v[8] = 0xCE0C1C03 ∧ v[12] = 0xCE001C00 ∧ v[1] = 0 ∧ v[15] = 0 := by decide
/-- Section 2.3, counter high half: t = 2^32, final = 1. -/
theorem test_compress_counter_high_half :
    compress iv (Vector.replicate 64 0) 0x0000000100000000 true =
      #v[0xA6D5CAAB, 0x05315B78, 0x912873DF, 0x5856F7A8, 0xE06CF266, 0x4145535B, 0xFA187537, 0xD09E9A0B] := by
  decide +kernel
/-! ## Witnesses: inputs that meet the hypotheses of the obligations -/

/-- HardwareResetEventResetsEveryElement, from a state that is not the reset state. -/
theorem witness_HardwareResetEventResetsEveryElement :
    ({ ready with inbox := [.hardwareReset] } : State).inbox = .hardwareReset :: [] := rfl

/-- StepRunsTheDecodedCommand and EveryTransactionIsAnsweredOnce. -/
theorem witness_StepRunsTheDecodedCommand :
    (issued ready 0x00000403 0x64636261).inbox = .transaction 0x00000403 0x64636261 :: [] ∧
      decode 0x00000403#32 = .ok (.write 4) := ⟨rfl, by decide⟩

theorem witness_IdleBlockHoldsItsState : ready.inbox = [] := rfl

/-- DecodeOfEncode, one instruction of each kind, operands at their bounds. -/
theorem witness_DecodeOfEncode :
    (Instr.init 63 63).wellFormed = true ∧ (Instr.init 0 0).wellFormed = true ∧ (Instr.keyw 7).wellFormed = true ∧
      (Instr.write 4).wellFormed = true ∧ Instr.sum.wellFormed = true ∧ Instr.reset.wellFormed = true ∧
      (Instr.read 0x17).wellFormed = true := by decide

/-- EncodeOfDecode and DecodedFieldsAreTheirBits, each clause. -/
theorem witness_EncodeOfDecode :
    decode 0x003F3F01#32 = .ok (.init 63 63) ∧ decode 0x00000702#32 = .ok (.keyw 7) ∧
      decode 0x00000403#32 = .ok (.write 4) ∧ decode 0x00001706#32 = .ok (.read 0x17) := by decide

/-- DecodeFollowsMatchAndMask: each of the six right sides is met by a word. -/
theorem witness_DecodeFollowsMatchAndMask :
    0x003F3F01#32 &&& 0xFFC0C0FF#32 = 0x00000001#32 ∧ 0x00000702#32 &&& 0xFFFFF8FF#32 = 0x00000002#32 ∧
      0x00000403#32 &&& 0xFFFFF8FF#32 = 0x00000003#32 ∧ 0x00000004#32 &&& 0xFFFFFFFF#32 = 0x00000004#32 ∧
      0x00000005#32 &&& 0xFFFFFFFF#32 = 0x00000005#32 ∧ 0x00001706#32 &&& 0xFFFF00FF#32 = 0x00000006#32 := by decide

/-- IllegalCommandExactlyWhen, second clause: an illegal word (case (d)) in a configured state. -/
theorem witness_IllegalCommandExactlyWhen_illegal :
    (issued ready 0x00001806 0).inbox = .transaction 0x00001806 0 :: [] ∧
      decode 0x00001806#32 = .error .undefinedReadAddress := ⟨rfl, by decide⟩

/-- IllegalCommandExactlyWhen, third clause: READ STATUS with ERR = 2 standing. -/
theorem witness_IllegalCommandExactlyWhen_decoded :
    decode 0x00000006#32 = .ok (.read 0x00) ∧
      ∃ t, step (issued { ready with err := 2 } 0x00000006 0) = .next t ∧ (t.err == 2) = true :=
  ⟨by decide, exists_of_nextHas (by decide)⟩

theorem witness_IllFormedCommandIsIllegal :
    (Instr.write 5).wellFormed = false ∧ (Instr.read 0x18).wellFormed = false := by decide

/-- InitConstructsTheContext and the first clause of TotalBytesCountsTheStream, at both ends of both ranges. -/
theorem witness_InitConstructsTheContext :
    1 ≤ (1#6).toNat ∧ (1#6).toNat ≤ 32 ∧ (0#6).toNat ≤ 32 ∧ 1 ≤ (32#6).toNat ∧ (32#6).toNat ≤ 32 := by decide

/-- InitOutOfRangeDiscardsTheContext, each case just outside its range. -/
theorem witness_InitOutOfRangeDiscardsTheContext : (0#6).toNat < 1 ∧ 32 < (33#6).toNat := by decide

/-- InitOutOfRangeDiscardsTheContext, the later commands: a failing INIT and a KEYW run from the state it leaves. -/
theorem witness_InitOutOfRangeDiscardsTheContext_after :
    (∀ c ∈ [(Instr.init 33 0, (0 : Word)), (Instr.keyw 0, 1)], ∀ nn' kk',
      c.1 = .init nn' kk' → nn'.toNat < 1 ∨ 32 < nn'.toNat ∨ 32 < kk'.toNat) ∧
    ∃ t, exec (.init 0 0) ready = .next t ∧
      nextHas (runCommands [(Instr.init 33 0, (0 : Word)), (Instr.keyw 0, 1)] t) (fun _ => true) = true := by
  refine ⟨?_, exists_of_nextHas (by decide)⟩
  intro c hc nn' kk' he
  simp only [List.mem_cons, List.not_mem_nil, or_false] at hc
  rcases hc with rfl | rfl
  · injection he with h1 h2
    subst h1
    exact .inr (.inl (by decide))
  · cases he

/-- WriteAppendsWithinTheBlock and the second clause of TotalBytesCountsTheStream: N = 4 fills the buffer exactly, and N = 0 is
met at OFFSET = 64. -/
theorem witness_WriteAppendsWithinTheBlock :
    (4#3).toNat ≤ 4 ∧ ready.configured = true ∧ ({ ready with offset := 60 } : State).offset.toNat + (4#3).toNat ≤ 64 ∧
      ({ ready with offset := 64 } : State).offset.toNat + (0#3).toNat ≤ 64 := by decide

/-- WriteCompressesAcrossTheBlockEnd, at both ends: one byte at a full buffer, four bytes at OFFSET = 61. -/
theorem witness_WriteCompressesAcrossTheBlockEnd :
    (1#3).toNat ≤ 4 ∧ ready.configured = true ∧ ({ ready with offset := 64 } : State).offset.toNat ≤ 64 ∧
      64 < ({ ready with offset := 64 } : State).offset.toNat + (1#3).toNat ∧
      64 < ({ ready with offset := 61 } : State).offset.toNat + (4#3).toNat := by decide

/-- SumComputesTheDigest, ResetRestartsTheContext (both of its cases) and SumDoesNotChangeTheStream. -/
theorem witness_SumComputesTheDigest :
    ready.configured = true ∧ ready.kk = 0 ∧ ({ ready with kk := 1 } : State).configured = true ∧
      ({ ready with kk := 1 } : State).kk ≠ 0 := by decide

/-- ReadReturnsTheRegister, last clause: the addresses next to the defined ones. -/
theorem witness_ReadReturnsTheRegister :
    ∀ addr ∈ [0x02#8, 0x0F#8, 0x18#8, 0xFF#8],
      ¬ (addr.toNat = 0x00 ∨ addr.toNat = 0x01 ∨ (0x10 ≤ addr.toNat ∧ addr.toNat ≤ 0x17)) := by decide

/-- StatusLayout, ConfigLayout and StepKeepsTheInvariant: the reset block meets the invariant and has no context. -/
theorem witness_StatusLayout : Block.reset.Inv ∧ Block.reset.configured = false :=
  ⟨⟨by decide, by decide, by decide, by decide, by decide, by decide, by decide, by decide, by decide⟩, rfl⟩

/-- NotConfiguredWithoutContext: each of its clauses. -/
theorem witness_NotConfiguredWithoutContext :
    State.reset.configured = false ∧ (0#3).toNat ≤ 4 ∧ State.reset.err ≠ 3 ∧
      (∃ t, exec (.keyw 0) State.reset = .next t ∧ true = true) ∧
      (∃ t, exec (.init 33 0) ready = .next t ∧ (t.err != 0) = true) ∧
      (∃ t, step (issued State.reset 0x00002001 0) = .next t ∧ t.configured = true) :=
  ⟨rfl, by decide, by decide, exists_of_nextHas (p := fun _ => true) (by decide), exists_of_nextHas (by decide),
    exists_of_nextHas (by decide)⟩

/-- ErrorPriority: a word of each of its five clauses, each with a next state. -/
theorem witness_ErrorPriority :
    decode 0x00000503#32 = .error .writeCountTooLarge ∧ decode 0x00000003#32 = .ok (.write 0) ∧
      decode 0x00280001#32 = .ok (.init 0 40) ∧ decode 0x00000002#32 = .ok (.keyw 0) ∧
      decode 0x00000006#32 = .ok (.read 0) ∧
      (∃ t, step (issued State.reset 0x00000503 0) = .next t ∧ (t.err == 2) = true) ∧
      (∃ t, step (issued State.reset 0x00000003 0) = .next t ∧ (t.err == 3) = true) ∧
      (∃ t, step (issued State.reset 0x00280001 0) = .next t ∧ (t.err == 1) = true) ∧
      (∃ t, step (issued State.reset 0x00000002 0) = .next t ∧ (t.err == 0) = true) ∧
      ∃ t, step (issued State.reset 0x00000006 0) = .next t ∧ (t.err == 0) = true :=
  ⟨by decide, by decide, by decide, by decide, by decide, exists_of_nextHas (by decide), exists_of_nextHas (by decide),
    exists_of_nextHas (by decide), exists_of_nextHas (by decide), exists_of_nextHas (by decide)⟩

/-- FailedTransactionIsPrecise and ResultWordIsStatusAfter: a successful READ, a success that is no READ, and a failure with each
of the three codes. -/
theorem witness_FailedTransactionIsPrecise :
    decode 0x00000006#32 = .ok (.read 0) ∧ decode 0x00000002#32 = .ok (.keyw 0) ∧
      (∃ t, step (issued ready 0x00000006 0) = .next t ∧ (t.err == 0) = true) ∧
      (∃ t, step (issued ready 0x00000002 0) = .next t ∧ (t.err == 0) = true) ∧
      (∃ t, step (issued ready 0x00000001 0) = .next t ∧ (t.err == 1) = true) ∧
      (∃ t, step (issued ready 0x00000000 0) = .next t ∧ (t.err == 2) = true) ∧
      (∃ t, step (issued State.reset 0x00000004 0) = .next t ∧ (t.err == 3) = true) :=
  ⟨by decide, by decide, exists_of_nextHas (by decide), exists_of_nextHas (by decide), exists_of_nextHas (by decide),
    exists_of_nextHas (by decide), exists_of_nextHas (by decide)⟩

/-- OnlyHardwareResetClearsSticky: ERR_STICKY standing and cleared, by the one event that can. -/
theorem witness_OnlyHardwareResetClearsSticky :
    ({ ready with errSticky := true, inbox := [.hardwareReset] } : State).errSticky = true ∧
      ∃ t, step { ready with errSticky := true, inbox := [.hardwareReset] } = .next t ∧ (!t.errSticky) = true :=
  ⟨rfl, exists_of_nextHas (by decide)⟩

/-- OnlyHardwareResetClearsSticky, the clauses on ERR: with ERR = 3 standing, a READ that keeps it and a transaction of each
other kind that overwrites it. -/
theorem witness_OnlyHardwareResetClearsSticky_err :
    (∃ t, step (issued { ready with err := 3 } 0x00000006 0) = .next t ∧ (t.err == 3) = true) ∧
      (∃ t, step (issued { ready with err := 3 } 0x00000503 0) = .next t ∧ (t.err == 2) = true) ∧
      (∃ t, step (issued { ready with err := 3 } 0x00000403 0) = .next t ∧ (t.err == 0) = true) ∧
      (∃ t, step (issued { ready with err := 3 } 0x00002101 0) = .next t ∧ (t.err == 1) = true) ∧
      ∃ t, step (issued { ready with err := 3 } 0x00000002 0) = .next t ∧ (t.err == 0) = true :=
  ⟨exists_of_nextHas (by decide), exists_of_nextHas (by decide), exists_of_nextHas (by decide),
    exists_of_nextHas (by decide), exists_of_nextHas (by decide)⟩

/-- ParametersChangeOnlyAtInit: a step that changes NN, and a step of KEYW. -/
theorem witness_ParametersChangeOnlyAtInit :
    (∃ t, step (issued ready 0x00001001 0) = .next t ∧ (t.nn != ready.nn) = true) ∧
      ∃ t, step (issued ready 0x00000702 0xDEADBEEF) = .next t ∧ (t.kstage != ready.kstage) = true :=
  ⟨exists_of_nextHas (by decide), exists_of_nextHas (by decide)⟩

/-- StagingKeyChangesOnlyAtKeyw: both ways in which KSTAGE changes. -/
theorem witness_StagingKeyChangesOnlyAtKeyw :
    (∃ t, step (issued ready 0x00000702 0xDEADBEEF) = .next t ∧ (t.kstage != ready.kstage) = true) ∧
      ∃ t, step { ready with kstage := Vector.replicate 32 1, inbox := [.hardwareReset] } = .next t ∧
        (t.kstage != Vector.replicate 32 1) = true :=
  ⟨exists_of_nextHas (by decide), exists_of_nextHas (by decide)⟩

/-- WhoSetsAndClearsTheFlags: CONFIGURED set and cleared, DIGEST_VALID set and cleared. -/
theorem witness_WhoSetsAndClearsTheFlags :
    (∃ t, step (issued State.reset 0x00002001 0) = .next t ∧ t.configured = true) ∧
      (∃ t, step (issued ready 0x00002101 0) = .next t ∧ (!t.configured) = true) ∧
      (∃ t, step (issued ready 0x00000004 0) = .next t ∧ t.digestValid = true) ∧
      ∃ t, step (issued { ready with digestValid := true } 0x00000103 0x61) = .next t ∧ (!t.digestValid) = true :=
  ⟨exists_of_nextHas (by decide), exists_of_nextHas (by decide), exists_of_nextHas (by decide),
    exists_of_nextHas (by decide)⟩

/-- A state that differs from `ready` in every hidden element. -/
def hiddenDiffers : State :=
  { ready with
    h := Vector.replicate 8 1, t := 64, buf := abcBuffer, offset := 3, kstage := Vector.replicate 32 2
    ckey := Vector.replicate 32 3 }

/-- HiddenElementsAreNeverReturned: two such states, and a SUM on both. -/
theorem witness_HiddenElementsAreNeverReturned :
    ready.toBlock.SameVisible hiddenDiffers.toBlock ∧ ready.h ≠ hiddenDiffers.h ∧ ready.results = hiddenDiffers.results ∧
      (∃ t, step (issued ready 0x00000004 0) = .next t ∧ true = true) ∧
      ∃ t, step (issued hiddenDiffers 0x00000004 0) = .next t ∧ true = true :=
  ⟨⟨rfl, rfl, rfl, ⟨rfl, rfl⟩, rfl, rfl⟩, by decide, rfl, exists_of_nextHas (p := fun _ => true) (by decide),
    exists_of_nextHas (p := fun _ => true) (by decide)⟩

/-- UnusedDataLanesAreIgnored: WRITE 2 with data words that agree in lanes 0 and 1 only. -/
theorem witness_UnusedDataLanesAreIgnored :
    (∀ j < (2#3).toNat, lane 0xFFFF6362 j = lane 0x00006362 j) ∧
      (∃ t, exec (.write 2) { ready with wdata := 0x00006362 } = .next t ∧ true = true) ∧
      ∃ t, exec (.write 2) { ready with wdata := 0xFFFF6362 } = .next t ∧ true = true :=
  ⟨by decide, exists_of_nextHas (p := fun _ => true) (by decide), exists_of_nextHas (p := fun _ => true) (by decide)⟩

/-- InitDependsOnTheKeyPrefixAlone: staging keys that agree in their first byte only, and contexts that differ. -/
theorem witness_InitDependsOnTheKeyPrefixAlone :
    (∀ j : Fin 32, j.val < (1#6).toNat →
      ((Vector.replicate 32 (2 : Byte)).set 0 0x6B)[j] = ((Vector.replicate 32 (0 : Byte)).set 0 0x6B)[j]) ∧
      (∃ t, exec (.init 32 1) { hiddenDiffers with kstage := (Vector.replicate 32 (2 : Byte)).set 0 0x6B } = .next t ∧
        t.configured = true) ∧
      ∃ t, exec (.init 32 1) { State.reset with kstage := (Vector.replicate 32 (0 : Byte)).set 0 0x6B } = .next t ∧
        t.configured = true :=
  ⟨by decide, exists_of_nextHas (by decide), exists_of_nextHas (by decide)⟩

/-- KeywDoesNotReachTheContext: a KEYW, and a run of commands with no INIT. -/
theorem witness_KeywDoesNotReachTheContext :
    (∃ t, exec (.keyw 0) { ready with wdata := 0xFF } = .next t ∧ (t.kstage[0] == 0xFF) = true) ∧
      ∀ c ∈ [(Instr.write 3, (0x00636261 : Word)), (Instr.reset, 0)], ∀ nn kk, c.1 ≠ .init nn kk := by
  refine ⟨exists_of_nextHas (by decide), ?_⟩
  intro c hc nn kk he
  simp only [List.mem_cons, List.not_mem_nil, or_false] at hc
  rcases hc with rfl | rfl <;> cases he

/-- SumDoesNotChangeTheStream: commands that carry no byte. -/
theorem witness_SumDoesNotChangeTheStream :
    (∀ c ∈ [(Instr.write 0, (0xFF : Word)), (Instr.read 0x10, 0)], streaming c.1 = true) ∧
      writtenBytes [(Instr.write 0, (0xFF : Word)), (Instr.read 0x10, 0)] = [] := by decide

/-- RepeatingACommandChangesNothing: a RESET, twice. -/
theorem witness_RepeatingACommandChangesNothing :
    ∃ t, exec .reset { ready with offset := 3 } = .next t ∧ nextHas (exec .reset t) (fun u => u.offset == 0) = true :=
  exists_of_nextHas (by decide)

/-- StepKeepsTheInvariant: a state that meets the invariant and has a next state. -/
theorem witness_StepKeepsTheInvariant :
    (issued State.reset 0x00002001 0).toBlock.Inv ∧
      ∃ t, step (issued State.reset 0x00002001 0) = .next t ∧ t.configured = true :=
  ⟨witness_StatusLayout.1, exists_of_nextHas (by decide)⟩

/-- StepKeepsDigestValidTrue: a state in which DIGEST_VALID = 1 and DIGEST is the digest of the stream. -/
theorem witness_StepKeepsDigestValidTrue :
    ({ ready with digest := streamDigest ready.toBlock, digestValid := true } : State).toBlock.DigestCurrent ∧
      ∃ t, step (issued { ready with digest := streamDigest ready.toBlock, digestValid := true } 0x00000003 0) = .next t ∧
        t.digestValid = true :=
  ⟨fun _ => rfl, exists_of_nextHas (by decide)⟩

/-- StepKeepsTheKeyBlockCounted: the pending key block, and a byte that compresses it. -/
theorem witness_StepKeepsTheKeyBlockCounted :
    ({ ready with kk := 1, offset := 64 } : State).toBlock.OffsetBounded ∧
      ({ ready with kk := 1, offset := 64 } : State).toBlock.KeyBlockCounted ∧
      ({ ready with kk := 1, offset := 64 } : State).t.toNat + 64 < 2 ^ 64 ∧
      ∃ t, step (issued { ready with kk := 1, offset := 64 } 0x00000103 0x61) = .next t ∧ (t.offset == 1) = true :=
  ⟨by decide, by decide, by decide, exists_of_nextHas (by decide)⟩

/-- StreamingEquivalence: "abc" in one WRITE, and in two with a SUM and a KEYW between. -/
theorem witness_StreamingEquivalence :
    ready.configured = true ∧ (∀ c ∈ [(Instr.write 3, (0x00636261 : Word))], streaming c.1 = true) ∧
      (∀ d ∈ [(Instr.write 1, (0x61 : Word)), (Instr.sum, 0), (Instr.keyw 0, 1), (Instr.write 2, 0x6362)],
        streaming d.1 = true) ∧
      writtenBytes [(Instr.write 3, (0x00636261 : Word))] =
        writtenBytes [(Instr.write 1, (0x61 : Word)), (Instr.sum, 0), (Instr.keyw 0, 1), (Instr.write 2, 0x6362)] := by
  decide

/-- ResetEqualsFreshInit: an INIT that succeeds, a command that is no INIT run from the state it leaves, and the commands of
the witness above after the RESET. -/
theorem witness_ResetEqualsFreshInit :
    (∀ c ∈ [(Instr.write 4, (0x64636261 : Word))], ∀ nn' kk', c.1 ≠ .init nn' kk') ∧
      ∃ fresh, exec (.init 32 1) State.reset = .next fresh ∧
        (fresh.configured && nextHas (runCommands [(Instr.write 4, 0x64636261)] fresh) (fun _ => true)) = true := by
  refine ⟨?_, exists_of_nextHas (by decide)⟩
  intro c hc nn kk he
  simp only [List.mem_cons, List.not_mem_nil, or_false] at hc
  subst hc
  cases he

/-- MixingOperation: the indices of column 0 and of diagonal 3 (40_compression_core.md R105). -/
theorem witness_MixingOperation : ([0, 4, 8, 12] : List (Fin 16)).Nodup ∧ ([3, 4, 9, 14] : List (Fin 16)).Nodup := by decide

end Sys2Proof.Tests
end

/-! PROOFS. The step is total, and a transaction is answered once (00_scope.md R13, 60_exceptions.md R226). -/

namespace Sys2Proof.Machine

/-- A command word, legal or ILLEGAL, completes and returns one result word (60_exceptions.md R213). -/
theorem runCommand_answers (cmd : Word) (s : State) : ∃ b r, runCommand cmd s = .next (s.answer b r) := by
  cases hd : decode cmd with
  | error e => exact ⟨_, _, (runCommand_of_error hd s).trans (raiseError_eq _ _ s)⟩
  | ok i =>
    obtain ⟨b, r, hexec, -⟩ := exec_effect i s
    exact ⟨b, r, (runCommand_of_ok hd s).trans hexec⟩

theorem step_transaction_answers {s : State} {cmd wdata : Word} {rest : List HostEvent}
    (h : s.inbox = .transaction cmd wdata :: rest) : ∃ b r, step s = .next ((s.accept wdata rest).answer b r) := by
  rw [step_of_transaction h]
  exact runCommand_answers cmd _

theorem step_total (s : State) : ∃ t, step s = .next t := by
  cases h : s.inbox with
  | nil => exact ⟨s, step_of_empty h⟩
  | cons e rest =>
    cases e with
    | transaction cmd wdata =>
      obtain ⟨b, r, hstep⟩ := step_transaction_answers h
      exact ⟨_, hstep⟩
    | hardwareReset => exact ⟨_, step_of_hardwareReset h⟩

/-- Settles O5: the oldest event decides the step, and a transaction's step ends in `State.answer`. -/
theorem everyTransactionIsAnsweredOnce : Obligations.EveryTransactionIsAnsweredOnce := by
  refine ⟨step_total, fun s cmd wdata rest h => ?_⟩
  obtain ⟨b, r, hstep⟩ := step_transaction_answers h
  exact ⟨_, r, hstep, by simp, by simp⟩

/-- Settles O3: `step` takes the transaction, and `runCommand` runs what its word decodes to. -/
theorem stepRunsTheDecodedCommand : Obligations.StepRunsTheDecodedCommand := by
  intro s cmd wdata rest i h hd
  refine ⟨wellFormed_of_decode hd, ?_⟩
  calc step s = runCommand cmd (s.accept wdata rest) := step_of_transaction h
    _ = exec i (s.accept wdata rest) := runCommand_of_ok hd _

end Sys2Proof.Machine

/-! PROOFS. The state (10_state.md): what one step keeps, said once for any property of the block, and with it the three
invariants; who changes the parameters, the staging key and the flags; and the two views STATUS and CONFIG. -/

namespace Sys2Proof.Machine

/-! ## What a step leaves of the block -/

/-- `step_cases` for the block alone. -/
theorem step_effect {s t : State} (h : step s = .next t) :
    (s.inbox = [] ∧ t.toBlock = s.toBlock) ∨
    (∃ rest, s.inbox = .hardwareReset :: rest ∧ t.toBlock = Block.reset) ∨
    (∃ cmd wdata rest e, s.inbox = .transaction cmd wdata :: rest ∧ decode cmd = .error e ∧
      t.toBlock = s.toBlock.recordError .illegalCommand) ∨
    (∃ cmd wdata rest i w, s.inbox = .transaction cmd wdata :: rest ∧ decode cmd = .ok i ∧
      CommandEffect (s.accept wdata rest) i t.toBlock w) := by
  obtain ⟨hq, rfl⟩ | ⟨rest, hq, rfl⟩ | ⟨cmd, wdata, rest, e, hq, hd, ht⟩ | ⟨cmd, wdata, rest, i, hq, hd, hx⟩ := step_cases h
  · exact .inl ⟨hq, rfl⟩
  · exact .inr (.inl ⟨rest, hq, rfl⟩)
  · rw [raiseError_eq] at ht
    injection ht with ht
    exact .inr (.inr (.inl ⟨cmd, wdata, rest, e, hq, hd, ht ▸ rfl⟩))
  · obtain ⟨b, w, rfl, heff⟩ := exec_inv hx
    exact .inr (.inr (.inr ⟨cmd, wdata, rest, i, w, hq, hd, heff⟩))

/-- `P` holds of the block `b` and of whatever one operation makes of it; the two records of an outcome keep it anywhere. -/
structure KeptFrom (P : Block → Prop) (b : Block) : Prop where
  here : P b
  hardwareReset : P Block.reset
  recordOk : ∀ a, P a → P a.recordOk
  recordError : ∀ a e, P a → P (a.recordError e)
  keyw : ∀ idx w, P (keywBlock idx w b)
  init : ∀ nn kk, initLengthsOk nn kk = true → P (contextInit (latchParameters nn kk b))
  initFail : P (initFail b)
  write : ∀ n w, n.toNat ≤ 4 → b.configured = true → P (writeBlock n w b)
  sum : b.configured = true → P (sumBlock b)
  restart : b.configured = true → P (contextInit b)

theorem CommandEffect.keeps {P : Block → Prop} {s : State} {i : Instr} {b : Block} {w : Word}
    (h : CommandEffect s i b w) (kept : KeptFrom P s.toBlock) : P b := by
  cases h with
  | keyw idx => exact kept.recordOk _ (kept.keyw idx _)
  | init nn kk ok => exact kept.recordOk _ (kept.init nn kk ok)
  | initFails => exact kept.recordError _ _ kept.initFail
  | write n hn hc => exact kept.recordOk _ (kept.write n _ hn hc)
  | sum hc => exact kept.recordOk _ (kept.sum hc)
  | reset hc => exact kept.recordOk _ (kept.restart hc)
  | read => exact kept.here
  | writeUnconfigured | sumUnconfigured | resetUnconfigured | writeIllFormed | readIllFormed =>
    exact kept.recordError _ _ kept.here

/-- A property that every operation keeps from the block of `s` holds of the block after a step. -/
theorem step_keeps {P : Block → Prop} {s t : State} (h : step s = .next t) (kept : KeptFrom P s.toBlock) : P t.toBlock := by
  obtain ⟨-, ht⟩ | ⟨_, -, ht⟩ | ⟨_, _, _, _, -, -, ht⟩ | ⟨_, _, _, _, _, -, -, heff⟩ := step_effect h
  · exact ht ▸ kept.here
  · exact ht ▸ kept.hardwareReset
  · exact ht ▸ kept.recordError _ _ kept.here
  · exact heff.keeps kept

/-! ## The block's invariant under each operation -/

theorem Block.Inv.recordOk {b : Block} (h : b.Inv) : b.recordOk.Inv :=
  { h with errorRecordLegal := by simp [Block.ErrorRecordLegal] }

theorem ErrorKind.code_toNat_le (e : ErrorKind) : e.code.toNat ≤ 3 := by
  cases e <;> decide

theorem Block.Inv.recordError {b : Block} (h : b.Inv) (e : ErrorKind) : (b.recordError e).Inv :=
  { h with errorRecordLegal := ⟨e.code_toNat_le, fun _ => rfl⟩ }

theorem Block.Inv.keywBlock {b : Block} (h : b.Inv) (idx : BitVec 3) (w : Word) : (keywBlock idx w b).Inv :=
  { h with }

/-- A discarded context meets the invariant, whatever it was: every context element is zero (10_state.md R29). -/
theorem inv_initFail {b : Block} (herr : b.ErrorRecordLegal) : (initFail b).Inv where
  offsetBounded := by simp [Block.OffsetBounded]
  bufferTailZero := by simp [Block.BufferTailZero]
  lengthsLegal := by simp [Block.LengthsLegal]
  keyTailZero := by simp [Block.KeyTailZero]
  clearedUnlessConfigured := by simp [Block.ClearedUnlessConfigured]
  digestTailZero := by simp [Block.DigestTailZero]
  errorRecordLegal := herr
  counterAligned := by simp [Block.CounterAligned]
  compressedMeansPending := by simp [Block.CompressedMeansPending]

/-- The reset block is its own discarded context. -/
theorem inv_reset : Block.reset.Inv := inv_initFail (b := Block.reset) (by decide)

/-! ContextInit with a key and without (41_construct.md R135). -/

theorem contextInit_offset_of_key {b : Block} (hk : b.kk ≠ 0) : (contextInit b).offset = 64 := if_neg hk

theorem contextInit_offset_of_no_key {b : Block} (hk : b.kk = 0) : (contextInit b).offset = 0 := if_pos hk

theorem contextInit_buf_of_no_key {b : Block} (hk : b.kk = 0) : (contextInit b).buf = Vector.replicate 64 0 := if_pos hk

/-- ContextInit establishes the invariant of the stream and of DIGEST; the parameters and the error record are the caller's
(41_construct.md R135). -/
theorem inv_contextInit {b : Block} (hc : b.configured = true) (hlen : b.LengthsLegal) (hkey : b.KeyTailZero)
    (herr : b.ErrorRecordLegal) : (contextInit b).Inv where
  offsetBounded := by
    by_cases hk : b.kk = 0
    · rw [Block.OffsetBounded, contextInit_offset_of_no_key hk]
      decide
    · rw [Block.OffsetBounded, contextInit_offset_of_key hk]
      decide
  bufferTailZero := by
    intro k hoff
    by_cases hk : b.kk = 0
    · rw [contextInit_buf_of_no_key hk]
      exact Vector.getElem_replicate _
    · rw [contextInit_offset_of_key hk] at hoff
      exact absurd k.isLt (Nat.not_lt.mpr hoff)
  lengthsLegal := hlen
  keyTailZero := hkey
  clearedUnlessConfigured := by simp [Block.ClearedUnlessConfigured, hc]
  digestTailZero := by simp [Block.DigestTailZero]
  errorRecordLegal := herr
  counterAligned := by simp [Block.CounterAligned]
  compressedMeansPending := by simp [Block.CompressedMeansPending]

theorem latchParameters_keyTailZero (nn kk : BitVec 6) (b : Block) : (latchParameters nn kk b).KeyTailZero := by
  intro j hj
  simp only [latchParameters_kk] at hj
  simp [Nat.not_lt.mpr hj]

/-- INIT with legal lengths establishes the invariant; of the old block only the error record matters. -/
theorem inv_init {b : Block} (herr : b.ErrorRecordLegal) {nn kk : BitVec 6} (ok : initLengthsOk nn kk = true) :
    (contextInit (latchParameters nn kk b)).Inv :=
  inv_contextInit rfl (fun _ => (initLengthsOk_iff nn kk).1 ok) (latchParameters_keyTailZero nn kk b) herr

/-- Digest bytes from NN on are zero (43_finalization.md R171). -/
theorem digestByte_of_le {nn : BitVec 6} {i j : Nat} (h : nn.toNat ≤ 4 * i + j) (word : Word) :
    digestByte nn i word j = 0 := by
  rw [digestByte, if_neg (by omega)]

theorem Block.Inv.sumBlock {b : Block} (h : b.Inv) (hc : b.configured = true) : (sumBlock b).Inv :=
  { h with
    clearedUnlessConfigured := by simp [Block.ClearedUnlessConfigured, hc]
    digestTailZero := by
      intro k hk
      simp only [sumBlock_nn] at hk
      simp only [sumBlock_digest, streamDigest]
      rw [lane_digestWords _ _ _ _ _ (by omega), digestByte_of_le (by omega)] }

/-! ### Absorbing -/

/-- The part of the invariant that speaks of the stream (t, buf, OFFSET) alone. -/
structure Block.StreamInv (b : Block) : Prop where
  offsetBounded : b.OffsetBounded
  bufferTailZero : b.BufferTailZero
  counterAligned : b.CounterAligned
  compressedMeansPending : b.CompressedMeansPending

theorem Block.Inv.stream {b : Block} (h : b.Inv) : b.StreamInv := { h with }

/-- A byte stored at OFFSET leaves something pending, whatever t is. -/
theorem storeByte_streamInv {b : Block} (ho : b.offset.toNat < 64) (htail : b.BufferTailZero) (hal : b.CounterAligned)
    (x : Byte) : (storeByte x b).StreamInv where
  offsetBounded := by
    have := storeByte_offset_toNat ho x
    omega
  bufferTailZero := by
    intro k hk
    rw [storeByte_offset_toNat ho x] at hk
    have hz := htail k (by omega)
    simp only [Fin.getElem_fin] at hz
    simp [Vector.getElem_setIfInBounds, hz]
    omega
  counterAligned := hal
  compressedMeansPending := fun _ => ne_of_apply_ne BitVec.toNat (by
    rw [storeByte_offset_toNat ho x]
    exact Nat.succ_ne_zero _)

theorem compressFull_counterAligned {b : Block} (h : b.CounterAligned) : (compressFull b).CounterAligned := by
  have hadd : (compressFull b).t.toNat = (b.t.toNat + 64) % 2 ^ 64 := BitVec.toNat_add b.t 64
  rw [Block.CounterAligned] at h ⊢
  omega

theorem absorb_streamInv {b : Block} (h : b.StreamInv) (x : Byte) : (absorb b x).StreamInv := by
  by_cases hf : b.offset = 64
  · rw [absorb_of_full hf]
    exact storeByte_streamInv (by simp) (by simp [Block.BufferTailZero]) (compressFull_counterAligned h.counterAligned) x
  · have hlt : b.offset.toNat < 64 :=
      lt_of_le_of_ne h.offsetBounded fun e => hf (BitVec.eq_of_toNat_eq (by simpa using e))
    rw [absorb_of_not_full hf]
    exact storeByte_streamInv hlt h.bufferTailZero h.counterAligned x

theorem absorbAll_streamInv (xs : List Byte) {b : Block} (h : b.StreamInv) : (absorbAll b xs).StreamInv := by
  induction xs generalizing b with
  | nil => exact h
  | cons x xs ih => exact ih (absorb_streamInv h x)

theorem Block.Inv.writeBlock {b : Block} (h : b.Inv) (hc : b.configured = true) (n : BitVec 3) (w : Word) :
    (writeBlock n w b).Inv := by
  obtain ⟨hconf, hnn, hkk, -, hckey, hdig, -, herr, hsticky⟩ := writeBlock_frame n w b
  have hs := absorbAll_streamInv (streamBytes n w) h.stream
  exact
    { offsetBounded := hs.offsetBounded
      bufferTailZero := hs.bufferTailZero
      lengthsLegal := by simpa only [Block.LengthsLegal, hconf, hnn, hkk] using h.lengthsLegal
      keyTailZero := by simpa only [Block.KeyTailZero, hkk, hckey] using h.keyTailZero
      clearedUnlessConfigured := by simp [Block.ClearedUnlessConfigured, hconf, hc]
      digestTailZero := by simpa only [Block.DigestTailZero, hnn, hdig] using h.digestTailZero
      errorRecordLegal := by simpa only [Block.ErrorRecordLegal, herr, hsticky] using h.errorRecordLegal
      counterAligned := hs.counterAligned
      compressedMeansPending := hs.compressedMeansPending }

theorem inv_keptFrom {b : Block} (h : b.Inv) : KeptFrom Block.Inv b where
  here := h
  hardwareReset := inv_reset
  recordOk _ ha := ha.recordOk
  recordError _ e ha := ha.recordError e
  keyw := h.keywBlock
  init _ _ ok := inv_init h.errorRecordLegal ok
  initFail := inv_initFail h.errorRecordLegal
  write n w _ hc := h.writeBlock hc n w
  sum := h.sumBlock
  restart hc := inv_contextInit hc h.lengthsLegal h.keyTailZero h.errorRecordLegal

/-- Settles O39: each operation keeps all nine parts. -/
theorem stepKeepsTheInvariant : Obligations.StepKeepsTheInvariant :=
  fun _ _ hs h => step_keeps h (inv_keptFrom hs)

/-! ## DIGEST_VALID -/

theorem digestCurrent_of_not_valid {b : Block} (h : b.digestValid = false) : b.DigestCurrent := by
  simp [Block.DigestCurrent, h]

/-- DIGEST_VALID, DIGEST, the stream and NN are all that `DigestCurrent` speaks of. -/
theorem Block.DigestCurrent.congr {a b : Block} (h : b.DigestCurrent) (hd : a.SameDigest b) (hs : a.SameStream b)
    (hn : a.nn = b.nn) : a.DigestCurrent := by
  intro hv
  rw [hd.digest, streamDigest_congr hs hn]
  exact h (hd.digestValid ▸ hv)

theorem digestCurrent_sumBlock (b : Block) : (sumBlock b).DigestCurrent :=
  fun _ => (streamDigest_congr ⟨rfl, rfl, rfl, rfl⟩ rfl).symm

theorem writeBlock_keeps_digestValid (w : Word) (b : Block) : (writeBlock 0 w b).digestValid = b.digestValid := by
  obtain ⟨-, -, -, -, -, -, hdv, -⟩ := writeBlock_frame 0 w b
  simpa using hdv

theorem writeBlock_clears_digestValid {n : BitVec 3} (hn : n ≠ 0) (w : Word) (b : Block) :
    (writeBlock n w b).digestValid = false := by
  obtain ⟨-, -, -, -, -, -, hdv, -⟩ := writeBlock_frame n w b
  rw [hdv, decide_eq_false hn, Bool.and_false]

/-- A WRITE of no byte leaves the stream and the digest; any other clears DIGEST_VALID (42_write.md R151). -/
theorem Block.DigestCurrent.writeBlock {b : Block} (h : b.DigestCurrent) (n : BitVec 3) (w : Word) :
    (writeBlock n w b).DigestCurrent := by
  by_cases hn : n = 0
  · subst hn
    exact h.congr ⟨rfl, writeBlock_keeps_digestValid w b⟩ ⟨rfl, rfl, rfl, rfl⟩ rfl
  · exact digestCurrent_of_not_valid (writeBlock_clears_digestValid hn w b)

theorem digestCurrent_keptFrom {b : Block} (h : b.DigestCurrent) : KeptFrom Block.DigestCurrent b where
  here := h
  hardwareReset := digestCurrent_of_not_valid rfl
  recordOk _ ha := ha.congr ⟨rfl, rfl⟩ ⟨rfl, rfl, rfl, rfl⟩ rfl
  recordError _ _ ha := ha.congr ⟨rfl, rfl⟩ ⟨rfl, rfl, rfl, rfl⟩ rfl
  keyw _ _ := h.congr ⟨rfl, rfl⟩ ⟨rfl, rfl, rfl, rfl⟩ rfl
  init _ _ _ := digestCurrent_of_not_valid rfl
  initFail := digestCurrent_of_not_valid rfl
  write n w _ _ := h.writeBlock n w
  sum _ := digestCurrent_sumBlock b
  restart _ := digestCurrent_of_not_valid rfl

/-- Settles O40: what moves the stream clears DIGEST_VALID, and SUM sets it with the stream's own digest. -/
theorem stepKeepsDigestValidTrue : Obligations.StepKeepsDigestValidTrue :=
  fun _ _ hs h => step_keeps h (digestCurrent_keptFrom hs)

/-! ## The key block -/

/-- While the counter does not wrap, t + OFFSET counts the bytes absorbed; up to one block of them is compressed at most once
(10_state.md R27(d)). -/
theorem absorbAll_counts (xs : List Byte) : ∀ {b : Block}, b.offset.toNat ≤ 64 → b.t.toNat + 64 < 2 ^ 64 → xs.length ≤ 64 →
    (absorbAll b xs).t.toNat + (absorbAll b xs).offset.toNat = b.t.toNat + b.offset.toNat + xs.length := by
  induction xs with
  | nil => intros; rfl
  | cons x xs ih =>
    intro b ho ht hlen
    simp only [List.length_cons] at hlen ⊢
    obtain ⟨hoff, hoff64⟩ := absorb_offset ho x
    rw [absorbAll_cons]
    by_cases hf : b.offset = 64
    · have ht' : (absorb b x).t.toNat = b.t.toNat + 64 := by
        simp [absorb_of_full hf, BitVec.toNat_add]; omega
      have hb : b.offset.toNat = 64 := by simp [hf]
      rw [if_pos hf] at hoff
      obtain ⟨hofs, -, hts, -⟩ := absorbAll_within xs (b := absorb b x) (by omega)
      rw [hts, hofs]
      omega
    · have ht' : (absorb b x).t = b.t := by rw [absorb_of_not_full hf, storeByte_t]
      rw [if_neg hf] at hoff
      rw [ih hoff64 (ht' ▸ ht) (by omega), ht']
      omega

theorem keyBlockCounted_contextInit (b : Block) : (contextInit b).KeyBlockCounted := by
  intro hk
  rw [contextInit_offset_of_key (b := b) hk]
  exact Nat.le_add_left _ _

theorem Block.KeyBlockCounted.writeBlock {b : Block} (h : b.KeyBlockCounted) (ho : b.OffsetBounded)
    (ht : b.t.toNat + 64 < 2 ^ 64) {n : BitVec 3} (hn : n.toNat ≤ 4) (w : Word) : (writeBlock n w b).KeyBlockCounted := by
  obtain ⟨-, -, hkk, -⟩ := writeBlock_frame n w b
  obtain ⟨-, hts, -, hos⟩ := writeBlock_sameStream n w b
  have hcount := absorbAll_counts (streamBytes n w) ho ht (by rw [streamBytes_length]; omega)
  intro hk
  have hb := h (hkk ▸ hk)
  rw [hts, hos, hcount]
  omega

theorem keyBlockCounted_keptFrom {b : Block} (h : b.KeyBlockCounted) (ho : b.OffsetBounded)
    (ht : b.t.toNat + 64 < 2 ^ 64) : KeptFrom Block.KeyBlockCounted b where
  here := h
  hardwareReset := fun hk => absurd rfl hk
  recordOk _ ha := ha
  recordError _ _ ha := ha
  keyw _ _ := h
  init _ _ _ := keyBlockCounted_contextInit _
  initFail := fun hk => absurd rfl hk
  write _ w hn _ := h.writeBlock ho ht hn w
  sum _ := h
  restart _ := keyBlockCounted_contextInit _

/-- Settles O41: ContextInit puts a key in as a whole pending block, and t + OFFSET grows with the bytes from there. -/
theorem stepKeepsTheKeyBlockCounted : Obligations.StepKeepsTheKeyBlockCounted :=
  fun _ _ ho hs ht h => step_keeps h (keyBlockCounted_keptFrom hs ho ht)

/-! ## Who changes the parameters, the staging key and the flags -/

/-- Only INIT touches CONFIGURED, NN, KK and CKEY (10_state.md R23). -/
theorem CommandEffect.sameParameters {s : State} {i : Instr} {b : Block} {w : Word} (h : CommandEffect s i b w)
    (hi : ∀ nn kk, i ≠ .init nn kk) : b.SameParameters s.toBlock := by
  cases h with
  | init nn kk | initFails nn kk => exact absurd rfl (hi nn kk)
  | write n =>
    obtain ⟨hconf, hnn, hkk, -, hckey, -⟩ := writeBlock_frame n s.wdata s.toBlock
    exact ⟨hconf, hnn, hkk, hckey⟩
  | _ => exact ⟨rfl, rfl, rfl, rfl⟩

/-- Only KEYW touches KSTAGE (10_state.md R28). -/
theorem CommandEffect.kstage_eq {s : State} {i : Instr} {b : Block} {w : Word} (h : CommandEffect s i b w)
    (hi : ∀ idx, i ≠ .keyw idx) : b.kstage = s.kstage := by
  cases h with
  | keyw idx => exact absurd rfl (hi idx)
  | write n =>
    obtain ⟨-, -, -, hks, -⟩ := writeBlock_frame n s.wdata s.toBlock
    exact hks
  | _ => rfl

/-- INIT sets CONFIGURED and ERR = 0, or clears CONFIGURED with ERR = 1 (41_construct.md R133, R134). -/
theorem CommandEffect.init_outcome {s : State} {nn kk : BitVec 6} {b : Block} {w : Word}
    (h : CommandEffect s (.init nn kk) b w) :
    (b.configured = true ∧ b.err = 0) ∨ (b.configured = false ∧ b.err = 1) := by
  cases h with
  | init => exact .inl ⟨rfl, rfl⟩
  | initFails => exact .inr ⟨rfl, rfl⟩

/-- What a command does to DIGEST_VALID: SUM with a context sets it, INIT, RESET and a WRITE of bytes clear it, and every
other command keeps it (10_state.md R31). -/
theorem CommandEffect.digestValid_cases {s : State} {i : Instr} {b : Block} {w : Word} (h : CommandEffect s i b w) :
    b.digestValid = s.digestValid ∨ (b.digestValid = true ∧ i = .sum ∧ s.configured = true) ∨
      (b.digestValid = false ∧ (i = .reset ∨ (∃ nn kk, i = .init nn kk) ∨ ∃ n, n ≠ 0 ∧ i = .write n)) := by
  cases h with
  | init nn kk | initFails nn kk => exact .inr (.inr ⟨rfl, .inr (.inl ⟨nn, kk, rfl⟩)⟩)
  | sum hc => exact .inr (.inl ⟨rfl, rfl, hc⟩)
  | reset => exact .inr (.inr ⟨rfl, .inl rfl⟩)
  | write n =>
    by_cases hn : n = 0
    · subst hn
      exact .inl (writeBlock_keeps_digestValid s.wdata s.toBlock)
    · exact .inr (.inr ⟨writeBlock_clears_digestValid hn s.wdata s.toBlock, .inr (.inr ⟨n, hn, rfl⟩)⟩)
  | _ => exact .inl rfl

/-- A step keeps CONFIGURED, NN, KK and CKEY, or it took a hardware reset, or an INIT. -/
theorem step_parameters_cases {s t : State} (h : step s = .next t) :
    t.toBlock.SameParameters s.toBlock ∨ (∃ rest, s.inbox = .hardwareReset :: rest ∧ t.toBlock = Block.reset) ∨
      ∃ cmd wdata rest nn kk w, s.inbox = .transaction cmd wdata :: rest ∧ decode cmd = .ok (.init nn kk) ∧
        CommandEffect (s.accept wdata rest) (.init nn kk) t.toBlock w := by
  obtain ⟨-, ht⟩ | hreset | ⟨_, _, _, _, -, -, ht⟩ | ⟨cmd, wdata, rest, i, w, hq, hd, heff⟩ := step_effect h
  · exact .inl (ht ▸ ⟨rfl, rfl, rfl, rfl⟩)
  · exact .inr (.inl hreset)
  · exact .inl (ht ▸ ⟨rfl, rfl, rfl, rfl⟩)
  · by_cases hi : ∃ nn kk, i = .init nn kk
    · obtain ⟨nn, kk, rfl⟩ := hi
      exact .inr (.inr ⟨cmd, wdata, rest, nn, kk, w, hq, hd, heff⟩)
    · exact .inl (heff.sameParameters fun nn kk e => hi ⟨nn, kk, e⟩)

/-- A step that takes a KEYW. -/
theorem step_of_keyw {s : State} {cmd wdata : Word} {rest : List HostEvent} {idx : BitVec 3}
    (hq : s.inbox = .transaction cmd wdata :: rest) (hd : decode cmd = .ok (.keyw idx)) {t : State}
    (h : step s = .next t) : t.toBlock = (keywBlock idx wdata s.toBlock).recordOk := by
  rw [step_of_transaction hq, runCommand_of_ok hd, exec_keyw, succeed_eq] at h
  injection h with h
  exact h ▸ rfl

/-- Settles O28: of the commands only INIT touches the parameters, and KEYW's block differs in KSTAGE and ERR alone. -/
theorem parametersChangeOnlyAtInit : Obligations.ParametersChangeOnlyAtInit := by
  refine fun s t h => ⟨fun hne => ?_, fun cmd wdata rest idx hq hd => ?_⟩
  · obtain ⟨-, hnn, hkk, hckey⟩ | ⟨rest, hq, -⟩ | ⟨cmd, wdata, rest, nn, kk, -, hq, hd, -⟩ := step_parameters_cases h
    · exact absurd ⟨hnn, hkk, hckey⟩ hne
    · exact .inl ⟨rest, hq⟩
    · exact .inr ⟨cmd, wdata, rest, nn, kk, hq, hd⟩
  · rw [step_of_keyw hq hd h]
    exact ⟨⟨rfl, rfl, rfl, rfl⟩, ⟨rfl, rfl, rfl, rfl⟩, ⟨rfl, rfl⟩⟩

/-- Settles O29: of the commands only KEYW touches KSTAGE. -/
theorem stagingKeyChangesOnlyAtKeyw : Obligations.StagingKeyChangesOnlyAtKeyw := by
  intro s t h hne
  obtain ⟨-, ht⟩ | ⟨rest, hq, -⟩ | ⟨_, _, _, _, -, -, ht⟩ | ⟨cmd, wdata, rest, i, w, hq, hd, heff⟩ := step_effect h
  · exact absurd (congrArg Block.kstage ht) hne
  · exact .inl ⟨rest, hq⟩
  · exact absurd (congrArg Block.kstage ht) hne
  · by_cases hi : ∃ idx, i = .keyw idx
    · obtain ⟨idx, rfl⟩ := hi
      exact .inr ⟨cmd, wdata, rest, idx, hq, hd⟩
    · exact absurd (heff.kstage_eq fun idx e => hi ⟨idx, e⟩) hne

/-- A step that changes CONFIGURED took a hardware reset, which clears it, or an INIT, whose result code says which way. -/
theorem step_configured_cases {s t : State} (h : step s = .next t) (hne : t.configured ≠ s.configured) :
    (t.configured = false ∧ ∃ rest, s.inbox = .hardwareReset :: rest) ∨
      ∃ cmd wdata rest nn kk, s.inbox = .transaction cmd wdata :: rest ∧ decode cmd = .ok (.init nn kk) ∧
        ((t.configured = true ∧ t.err = 0) ∨ (t.configured = false ∧ t.err = 1)) := by
  obtain ⟨hconf, -⟩ | ⟨rest, hq, ht⟩ | ⟨cmd, wdata, rest, nn, kk, w, hq, hd, heff⟩ := step_parameters_cases h
  · exact absurd hconf hne
  · exact .inl ⟨congrArg Block.configured ht, rest, hq⟩
  · exact .inr ⟨cmd, wdata, rest, nn, kk, hq, hd, heff.init_outcome⟩

/-- A step that changes DIGEST_VALID took a hardware reset, which clears it, or one of the commands of 10_state.md R31. -/
theorem step_digestValid_cases {s t : State} (h : step s = .next t) (hne : t.digestValid ≠ s.digestValid) :
    (t.digestValid = false ∧ ∃ rest, s.inbox = .hardwareReset :: rest) ∨
      ∃ cmd wdata rest i, s.inbox = .transaction cmd wdata :: rest ∧ decode cmd = .ok i ∧
        ((t.digestValid = true ∧ i = .sum ∧ s.configured = true) ∨
          (t.digestValid = false ∧ (i = .reset ∨ (∃ nn kk, i = .init nn kk) ∨ ∃ n, n ≠ 0 ∧ i = .write n))) := by
  obtain ⟨-, ht⟩ | ⟨rest, hq, ht⟩ | ⟨_, _, _, _, -, -, ht⟩ | ⟨cmd, wdata, rest, i, w, hq, hd, heff⟩ := step_effect h
  · exact absurd (congrArg Block.digestValid ht) hne
  · exact .inl ⟨congrArg Block.digestValid ht, rest, hq⟩
  · exact absurd (congrArg Block.digestValid ht) hne
  · exact .inr ⟨cmd, wdata, rest, i, hq, hd, heff.digestValid_cases.resolve_left hne⟩

/-- Settles O30: a flag that moved names its event, and the flag's new value excludes the events that move it the other way. -/
theorem whoSetsAndClearsTheFlags : Obligations.WhoSetsAndClearsTheFlags := by
  refine fun s t h => ⟨fun hs ht => ?_, fun hs ht => ?_, fun hs ht => ?_, fun hs ht => ?_⟩
  · obtain ⟨hf, -⟩ | ⟨cmd, wdata, rest, nn, kk, hq, hd, ⟨-, herr⟩ | ⟨hf, -⟩⟩ := step_configured_cases h (by simp [hs, ht])
    · simp [ht] at hf
    · exact ⟨cmd, wdata, rest, nn, kk, hq, hd, herr⟩
    · simp [ht] at hf
  · obtain ⟨-, hr⟩ | ⟨cmd, wdata, rest, nn, kk, hq, hd, ⟨hf, -⟩ | ⟨-, herr⟩⟩ := step_configured_cases h (by simp [hs, ht])
    · exact .inl hr
    · simp [ht] at hf
    · exact .inr ⟨cmd, wdata, rest, nn, kk, hq, hd, herr⟩
  · obtain ⟨hf, -⟩ | ⟨cmd, wdata, rest, i, hq, hd, ⟨-, rfl, hc⟩ | ⟨hf, -⟩⟩ := step_digestValid_cases h (by simp [hs, ht])
    · simp [ht] at hf
    · exact ⟨cmd, wdata, rest, hq, hd, hc⟩
    · simp [ht] at hf
  · obtain ⟨-, hr⟩ | ⟨cmd, wdata, rest, i, hq, hd, ⟨hf, -⟩ | ⟨-, hi⟩⟩ := step_digestValid_cases h (by simp [hs, ht])
    · exact .inl hr
    · simp [ht] at hf
    · exact .inr ⟨cmd, wdata, rest, i, hq, hd, hi⟩

/-! ## The reset values and the two views -/

theorem statusWord_reset : statusWord State.reset.toBlock = 0x00000000#32 := by decide

theorem configWord_reset : configWord State.reset.toBlock = 0x00000000#32 := by decide

/-- Settles O1: R37's table, element by element. -/
theorem hardwareResetValues : Obligations.HardwareResetValues :=
  ⟨rfl, rfl, rfl, fun _ => Vector.getElem_replicate _, fun _ => Vector.getElem_replicate _,
    fun _ => Vector.getElem_replicate _, rfl, fun _ => Vector.getElem_replicate _, rfl,
    fun _ => Vector.getElem_replicate _, rfl, rfl, rfl, statusWord_reset, configWord_reset⟩

theorem statusWord_err (b : Block) : (statusWord b).extractLsb' 4 4 = b.err := by
  ext k hk
  interval_cases k <;> simp [statusWord]

theorem statusWord_reserved (b : Block) : (statusWord b).extractLsb' 8 24 = 0#24 := by
  ext k hk
  interval_cases k <;> simp [statusWord]

/-- Settles O21: each field sits at its own bits of the word, and the invariant bounds ERR. -/
theorem statusLayout : Obligations.StatusLayout := by
  refine ⟨fun b => ⟨?_, ?_, ?_, ?_, statusWord_err b, statusWord_reserved b, fun hinv => ?_⟩, statusWord_reset⟩
  · simp [statusWord] -- CONFIGURED
  · simp [statusWord] -- DIGEST_VALID
  · simp [statusWord] -- ERR_STICKY
  · simp [statusWord] -- the reserved bit 3
  · rw [statusWord_err]
    exact hinv.errorRecordLegal.1

theorem configWord_nn (b : Block) : (configWord b).extractLsb' 0 6 = b.nn := by
  ext k hk
  interval_cases k <;> simp [configWord]

theorem configWord_kk (b : Block) : (configWord b).extractLsb' 8 6 = b.kk := by
  ext k hk
  interval_cases k <;> simp [configWord]

theorem configWord_reserved (b : Block) :
    (configWord b).extractLsb' 6 2 = 0#2 ∧ (configWord b).extractLsb' 14 18 = 0#18 := by
  constructor <;> ext k hk <;> interval_cases k <;> simp [configWord]

/-- Settles O22: NN and KK each at their own bits, and both are zero without a context. -/
theorem configLayout : Obligations.ConfigLayout := by
  refine ⟨fun b => ?_, configWord_reset⟩
  obtain ⟨hlow, hhigh⟩ := configWord_reserved b
  refine ⟨configWord_nn b, hlow, configWord_kk b, hhigh, fun hinv hc => ?_⟩
  obtain ⟨hnn, hkk, -⟩ := hinv.clearedUnlessConfigured hc
  simp [configWord, hnn, hkk]

/-- Settles O38: no context, so nothing is current and no key is counted. -/
theorem resetMeetsTheInvariants : Obligations.ResetMeetsTheInvariants :=
  ⟨inv_reset, digestCurrent_of_not_valid rfl, fun hk => absurd rfl hk⟩

end Sys2Proof.Machine

/-! PROOFS. Idempotency (20_memory.md section 4): each operation but a WRITE of bytes, applied to the block it left, makes no
further change. -/

namespace Sys2Proof.Machine

theorem exec_toBlock_of_succeed {i : Instr} {b : Block} {s t : State} (h : exec i s = .next t)
    (he : exec i s = succeed b s) : t.toBlock = b.recordOk := by
  rw [he, succeed_eq] at h
  injection h with h
  exact h ▸ rfl

theorem exec_toBlock_of_raiseError {i : Instr} {e : ErrorKind} {b : Block} {s t : State} (h : exec i s = .next t)
    (he : exec i s = raiseError e b s) : t.toBlock = b.recordError e := by
  rw [he, raiseError_eq] at h
  injection h with h
  exact h ▸ rfl

/-! ## An operation on the block it left -/

theorem recordError_idem (e : ErrorKind) (b : Block) : (b.recordError e).recordError e = b.recordError e := rfl

theorem stageKeyWord_idem (key : Vector Byte 32) (idx : BitVec 3) (w : Word) :
    stageKeyWord (stageKeyWord key idx w) idx w = stageKeyWord key idx w := by
  ext k hk : 1
  simp only [stageKeyWord_getElem]
  split <;> rfl

theorem keywBlock_idem (idx : BitVec 3) (w : Word) (b : Block) :
    (keywBlock idx w (keywBlock idx w b).recordOk).recordOk = (keywBlock idx w b).recordOk :=
  congrArg (fun key => { b.recordOk with kstage := key }) (stageKeyWord_idem b.kstage idx w)

/-- INIT latches its operands and the staging key, which it keeps (41_construct.md R133). -/
theorem contextInit_latchParameters_idem (nn kk : BitVec 6) (b : Block) :
    (contextInit (latchParameters nn kk (contextInit (latchParameters nn kk b)).recordOk)).recordOk =
      (contextInit (latchParameters nn kk b)).recordOk := rfl

theorem initFail_idem (e : ErrorKind) (b : Block) :
    (initFail ((initFail b).recordError e)).recordError e = (initFail b).recordError e := rfl

/-- RESET reads the parameters alone, which it keeps (44_reset.md R190). -/
theorem contextInit_idem (b : Block) : (contextInit (contextInit b).recordOk).recordOk = (contextInit b).recordOk := rfl

/-- SUM digests the stream, which it keeps (43_finalization.md R172). -/
theorem sumBlock_idem (b : Block) : (sumBlock (sumBlock b).recordOk).recordOk = (sumBlock b).recordOk :=
  congrArg (fun digest => { (sumBlock b).recordOk with digest := digest })
    (streamDigest_congr (a := (sumBlock b).recordOk) ⟨rfl, rfl, rfl, rfl⟩ rfl)

/-- WRITE 0 carries no byte and leaves DIGEST_VALID (42_write.md R151). -/
theorem writeBlock_zero (w : Word) (b : Block) : writeBlock 0 w b = b := by
  simp [writeBlock, clearDigestValidIfBytes, streamBytes, absorbAll_nil]

theorem writeBlock_zero_recordOk_idem (w : Word) (b : Block) : (writeBlock 0 w b.recordOk).recordOk = b.recordOk := by
  rw [writeBlock_zero]
  rfl

/-! ## A command on the state it left -/

/-- The command meets the checks of its first run again, for it changes nothing they read, and so applies the same
operation to the block that operation left. -/
theorem CommandEffect.repeated {s u : State} {i : Instr} {b : Block} {w : Word} (h : CommandEffect s i b w)
    (hi : ∀ n, i = .write n → n = 0) (hu : exec i (s.answer b w) = .next u) : u.toBlock = b := by
  cases h with
  | keyw idx => exact (exec_toBlock_of_succeed hu (exec_keyw idx _)).trans (keywBlock_idem idx s.wdata s.toBlock)
  | init nn kk ok =>
    exact (exec_toBlock_of_succeed hu (exec_init_ok ok _)).trans (contextInit_latchParameters_idem nn kk s.toBlock)
  | initFails nn kk bad =>
    exact (exec_toBlock_of_raiseError hu (exec_init_fail bad _)).trans (initFail_idem _ s.toBlock)
  | write n hn hc =>
    obtain rfl := hi n rfl
    rw [writeBlock_zero] at hu ⊢
    exact (exec_toBlock_of_succeed hu (exec_write_ok hn hc)).trans (writeBlock_zero_recordOk_idem s.wdata s.toBlock)
  | sum hc => exact (exec_toBlock_of_succeed hu (exec_sum_ok hc)).trans (sumBlock_idem s.toBlock)
  | reset hc => exact (exec_toBlock_of_succeed hu (exec_reset_ok hc)).trans (contextInit_idem s.toBlock)
  | read addr r hr =>
    rw [exec_read_some hr] at hu
    injection hu with hu
    exact hu ▸ rfl
  | writeUnconfigured n hn hc =>
    exact (exec_toBlock_of_raiseError hu (exec_write_unconfigured hn hc)).trans (recordError_idem _ s.toBlock)
  | sumUnconfigured hc =>
    exact (exec_toBlock_of_raiseError hu (exec_sum_unconfigured hc)).trans (recordError_idem _ s.toBlock)
  | resetUnconfigured hc =>
    exact (exec_toBlock_of_raiseError hu (exec_reset_unconfigured hc)).trans (recordError_idem _ s.toBlock)
  | writeIllFormed n hn =>
    exact (exec_toBlock_of_raiseError hu (exec_write_ill hn _)).trans (recordError_idem _ s.toBlock)
  | readIllFormed addr hr =>
    exact (exec_toBlock_of_raiseError hu (exec_read_none hr _)).trans (recordError_idem _ s.toBlock)

/-- Settles O36: the first run's effect says what the second run applies, and to which block. -/
theorem repeatingACommandChangesNothing : Obligations.RepeatingACommandChangesNothing := by
  intro i s t u hi ht hu
  obtain ⟨b, w, rfl, heff⟩ := exec_inv ht
  exact heff.repeated hi hu

end Sys2Proof.Machine

/-! PROOFS. Encoding (30_encoding.md): the decoder said once, as the rows of R79's table; the two round trips with the encoder;
and which lanes of the data word a command reads. -/

namespace Sys2Proof.Machine

/-! ## Match and mask -/

theorem setWidth_opcodeOf (cmd : Word) : (opcodeOf cmd).setWidth 32 = cmd &&& 0xF#32 := by
  ext k hk
  interval_cases k <;> simp [opcodeOf]

theorem opcodeOf_eq_iff (cmd : Word) (opc : BitVec 4) : opcodeOf cmd = opc ↔ cmd &&& 0xF#32 = opc.setWidth 32 := by
  rw [← setWidth_opcodeOf, BitVec.toNat_eq, BitVec.toNat_eq, BitVec.toNat_setWidth_of_le (by omega),
    BitVec.toNat_setWidth_of_le (by omega)]

/-- R78 tests OPC and then the reserved bits, R79 both at once under the mask that covers them. -/
theorem masked_eq_iff {cmd : Word} (reserved : Word) (opc : BitVec 4) (hr : reserved &&& 0xF#32 = 0#32) :
    cmd &&& (reserved ||| 0xF#32) = opc.setWidth 32 ↔ opcodeOf cmd = opc ∧ cmd &&& reserved = 0 := by
  have hlow : opc.setWidth 32 &&& 0xF#32 = opc.setWidth 32 := by
    ext k hk
    interval_cases k <;> simp
  rw [opcodeOf_eq_iff]
  constructor
  · intro h
    constructor
    · calc cmd &&& 0xF#32 = cmd &&& (reserved ||| 0xF#32) &&& 0xF#32 := by
            rw [BitVec.and_assoc, BitVec.and_or_distrib_right, hr, BitVec.and_self, BitVec.zero_or]
        _ = opc.setWidth 32 := by rw [h, hlow]
    · calc cmd &&& reserved = cmd &&& (reserved ||| 0xF#32) &&& reserved := by
            rw [BitVec.and_assoc, BitVec.and_or_distrib_right, BitVec.and_comm 0xF#32, hr, BitVec.and_self, BitVec.or_zero]
        _ = 0#32 := by rw [h, ← hlow, BitVec.and_assoc, BitVec.and_comm 0xF#32, hr, BitVec.and_zero]
  · rintro ⟨hopc, hres⟩
    rw [BitVec.and_or_distrib_left, hopc, hres]
    exact BitVec.zero_or

/-- A word is its match value and, outside the mask, its own bits. -/
theorem match_or_unmasked {cmd mask val : Word} (h : cmd &&& mask = val) : val ||| (cmd &&& ~~~mask) = cmd := by
  rw [← h, ← BitVec.and_or_distrib_left, BitVec.or_not_self, BitVec.and_allOnes]

/-! ## Fields -/

theorem nnField_toNat (cmd : Word) : (nnField cmd).toNat = cmd.toNat / 2 ^ 8 % 2 ^ 6 := by
  rw [nnField, BitVec.extractLsb'_toNat, Nat.shiftRight_eq_div_pow]

theorem kkField_toNat (cmd : Word) : (kkField cmd).toNat = cmd.toNat / 2 ^ 16 % 2 ^ 6 := by
  rw [kkField, BitVec.extractLsb'_toNat, Nat.shiftRight_eq_div_pow]

theorem countField_toNat (cmd : Word) : (countField cmd).toNat = cmd.toNat / 2 ^ 8 % 2 ^ 3 := by
  rw [countField, BitVec.extractLsb'_toNat, Nat.shiftRight_eq_div_pow]

theorem addrField_toNat (cmd : Word) : (addrField cmd).toNat = cmd.toNat / 2 ^ 8 % 2 ^ 8 := by
  rw [addrField, BitVec.extractLsb'_toNat, Nat.shiftRight_eq_div_pow]

/-- READ's extra condition in numbers (R79). -/
theorem readAddressOk_iff (addr : BitVec 8) :
    readAddressOk addr = true ↔ addr.toNat = 0x00 ∨ addr.toNat = 0x01 ∨ (0x10 ≤ addr.toNat ∧ addr.toNat ≤ 0x17) := by
  simp [readAddressOk, BitVec.toNat_eq, or_assoc]

@[simp] theorem nnField_encode (nn kk : BitVec 6) : nnField (encode (.init nn kk)) = nn := by
  ext k hk
  interval_cases k <;> simp [nnField, encode]

@[simp] theorem kkField_encode (nn kk : BitVec 6) : kkField (encode (.init nn kk)) = kk := by
  ext k hk
  interval_cases k <;> simp [kkField, encode]

@[simp] theorem countField_encode_keyw (idx : BitVec 3) : countField (encode (.keyw idx)) = idx := by
  ext k hk
  interval_cases k <;> simp [countField, encode]

@[simp] theorem countField_encode_write (n : BitVec 3) : countField (encode (.write n)) = n := by
  ext k hk
  interval_cases k <;> simp [countField, encode]

@[simp] theorem addrField_encode (addr : BitVec 8) : addrField (encode (.read addr)) = addr := by
  ext k hk
  interval_cases k <;> simp [addrField, encode]

/-! The bits a format's mask leaves free are its fields, back at their places. -/

theorem lengths_eq_unmasked (cmd : Word) :
    ((nnField cmd).setWidth 32 <<< 8) ||| ((kkField cmd).setWidth 32 <<< 16) = cmd &&& ~~~0xFFC0C0FF#32 := by
  ext k hk
  interval_cases k <;> simp [nnField, kkField]

theorem count_eq_unmasked (cmd : Word) : (countField cmd).setWidth 32 <<< 8 = cmd &&& ~~~0xFFFFF8FF#32 := by
  ext k hk
  interval_cases k <;> simp [countField]

theorem addr_eq_unmasked (cmd : Word) : (addrField cmd).setWidth 32 <<< 8 = cmd &&& ~~~0xFFFF00FF#32 := by
  ext k hk
  interval_cases k <;> simp [addrField]

/-! ## The decoder, row by row -/

theorem decodeInit_eq_ok {cmd : Word} {i : Instr} :
    decodeInit cmd = .ok i ↔ cmd &&& reservedP = 0 ∧ .init (nnField cmd) (kkField cmd) = i := by
  simp [decodeInit, ite_eq_iff]

theorem decodeKeyw_eq_ok {cmd : Word} {i : Instr} :
    decodeKeyw cmd = .ok i ↔ cmd &&& reservedI = 0 ∧ .keyw (countField cmd) = i := by
  simp [decodeKeyw, ite_eq_iff]

theorem decodeWrite_eq_ok {cmd : Word} {i : Instr} :
    decodeWrite cmd = .ok i ↔
      cmd &&& reservedI = 0 ∧ writeCountOk (countField cmd) = true ∧ .write (countField cmd) = i := by
  simp [decodeWrite, ite_eq_iff]

theorem decodeSum_eq_ok {cmd : Word} {i : Instr} : decodeSum cmd = .ok i ↔ cmd &&& reservedN = 0 ∧ .sum = i := by
  simp [decodeSum, ite_eq_iff]

theorem decodeReset_eq_ok {cmd : Word} {i : Instr} : decodeReset cmd = .ok i ↔ cmd &&& reservedN = 0 ∧ .reset = i := by
  simp [decodeReset, ite_eq_iff]

theorem decodeRead_eq_ok {cmd : Word} {i : Instr} :
    decodeRead cmd = .ok i ↔
      cmd &&& reservedA = 0 ∧ readAddressOk (addrField cmd) = true ∧ .read (addrField cmd) = i := by
  simp [decodeRead, ite_eq_iff]

/-- What the decoder answers: a command whose row of R79 the word matches under its mask, with the extra condition, and with the
word's own fields as operands. -/
inductive DecodesTo (cmd : Word) : Instr → Prop where
  | init (hm : cmd &&& 0xFFC0C0FF#32 = 0x00000001#32) : DecodesTo cmd (.init (nnField cmd) (kkField cmd))
  | keyw (hm : cmd &&& 0xFFFFF8FF#32 = 0x00000002#32) : DecodesTo cmd (.keyw (countField cmd))
  | write (hm : cmd &&& 0xFFFFF8FF#32 = 0x00000003#32) (hn : writeCountOk (countField cmd) = true) :
      DecodesTo cmd (.write (countField cmd))
  | sum (hm : cmd &&& 0xFFFFFFFF#32 = 0x00000004#32) : DecodesTo cmd .sum
  | reset (hm : cmd &&& 0xFFFFFFFF#32 = 0x00000005#32) : DecodesTo cmd .reset
  | read (hm : cmd &&& 0xFFFF00FF#32 = 0x00000006#32) (ha : readAddressOk (addrField cmd) = true) :
      DecodesTo cmd (.read (addrField cmd))

theorem DecodesTo.of_decode {cmd : Word} {i : Instr} (h : decode cmd = .ok i) : DecodesTo cmd i := by
  unfold decode at h
  split at h
  case h_1 hopc =>
    obtain ⟨hres, rfl⟩ := decodeInit_eq_ok.1 h
    exact .init ((masked_eq_iff reservedP 1 rfl).2 ⟨BitVec.eq_of_toNat_eq hopc, hres⟩)
  case h_2 hopc =>
    obtain ⟨hres, rfl⟩ := decodeKeyw_eq_ok.1 h
    exact .keyw ((masked_eq_iff reservedI 2 rfl).2 ⟨BitVec.eq_of_toNat_eq hopc, hres⟩)
  case h_3 hopc =>
    obtain ⟨hres, hn, rfl⟩ := decodeWrite_eq_ok.1 h
    exact .write ((masked_eq_iff reservedI 3 rfl).2 ⟨BitVec.eq_of_toNat_eq hopc, hres⟩) hn
  case h_4 hopc =>
    obtain ⟨hres, rfl⟩ := decodeSum_eq_ok.1 h
    exact .sum ((masked_eq_iff reservedN 4 rfl).2 ⟨BitVec.eq_of_toNat_eq hopc, hres⟩)
  case h_5 hopc =>
    obtain ⟨hres, rfl⟩ := decodeReset_eq_ok.1 h
    exact .reset ((masked_eq_iff reservedN 5 rfl).2 ⟨BitVec.eq_of_toNat_eq hopc, hres⟩)
  case h_6 hopc =>
    obtain ⟨hres, ha, rfl⟩ := decodeRead_eq_ok.1 h
    exact .read ((masked_eq_iff reservedA 6 rfl).2 ⟨BitVec.eq_of_toNat_eq hopc, hres⟩) ha
  case h_7 => cases h

theorem DecodesTo.decode_eq {cmd : Word} {i : Instr} (h : DecodesTo cmd i) : decode cmd = .ok i := by
  cases h with
  | init hm =>
    obtain ⟨hopc, hres⟩ := (masked_eq_iff reservedP 1 rfl).1 hm
    rw [decode, hopc]
    exact decodeInit_eq_ok.2 ⟨hres, rfl⟩
  | keyw hm =>
    obtain ⟨hopc, hres⟩ := (masked_eq_iff reservedI 2 rfl).1 hm
    rw [decode, hopc]
    exact decodeKeyw_eq_ok.2 ⟨hres, rfl⟩
  | write hm hn =>
    obtain ⟨hopc, hres⟩ := (masked_eq_iff reservedI 3 rfl).1 hm
    rw [decode, hopc]
    exact decodeWrite_eq_ok.2 ⟨hres, hn, rfl⟩
  | sum hm =>
    obtain ⟨hopc, hres⟩ := (masked_eq_iff reservedN 4 rfl).1 hm
    rw [decode, hopc]
    exact decodeSum_eq_ok.2 ⟨hres, rfl⟩
  | reset hm =>
    obtain ⟨hopc, hres⟩ := (masked_eq_iff reservedN 5 rfl).1 hm
    rw [decode, hopc]
    exact decodeReset_eq_ok.2 ⟨hres, rfl⟩
  | read hm ha =>
    obtain ⟨hopc, hres⟩ := (masked_eq_iff reservedA 6 rfl).1 hm
    rw [decode, hopc]
    exact decodeRead_eq_ok.2 ⟨hres, ha, rfl⟩

theorem decode_eq_ok_iff {cmd : Word} {i : Instr} : decode cmd = .ok i ↔ DecodesTo cmd i :=
  ⟨.of_decode, DecodesTo.decode_eq⟩

/-! ## The round trips -/

/-- A well-formed command's encoding matches the command's row, with the operands in its fields. -/
theorem decodesTo_encode {i : Instr} (h : i.wellFormed = true) : DecodesTo (encode i) i := by
  cases i with
  | init nn kk => simpa using DecodesTo.init ((Laws.TablePattern.init nn kk 0).2 rfl)
  | keyw idx => simpa using DecodesTo.keyw ((Laws.TablePattern.keyw idx 1).2 rfl)
  | write n => simpa using DecodesTo.write ((Laws.TablePattern.write n 2).2 rfl) (by simpa [Instr.wellFormed] using h)
  | sum => exact .sum ((Laws.TablePattern.sum 3).2 rfl)
  | reset => exact .reset ((Laws.TablePattern.reset 4).2 rfl)
  | read addr => simpa using DecodesTo.read ((Laws.TablePattern.read addr 5).2 rfl) (by simpa [Instr.wellFormed] using h)

/-- Settles O6: the encoding meets its own row of R79. -/
theorem decodeOfEncode : Obligations.DecodeOfEncode := fun _ h => (decodesTo_encode h).decode_eq

/-- The match value and the fields at their places make up the word. -/
theorem DecodesTo.encode_eq {cmd : Word} {i : Instr} (h : DecodesTo cmd i) : encode i = cmd := by
  cases h with
  | init hm =>
    rw [encode, BitVec.or_assoc, lengths_eq_unmasked]
    exact match_or_unmasked hm
  | keyw hm | write hm =>
    rw [encode, count_eq_unmasked]
    exact match_or_unmasked hm
  | sum hm | reset hm => simpa [encode] using match_or_unmasked hm
  | read hm =>
    rw [encode, addr_eq_unmasked]
    exact match_or_unmasked hm

/-- Settles O7: the masked bits are the match value, and the bits outside the mask are the fields. -/
theorem encodeOfDecode : Obligations.EncodeOfDecode := fun _ _ h =>
  ⟨wellFormed_of_decode h, (DecodesTo.of_decode h).encode_eq⟩

/-! ## What decodes, and to which operands -/

/-- Settles O8: the rows of `DecodesTo`, their extra conditions in numbers. -/
theorem decodeFollowsMatchAndMask : Obligations.DecodeFollowsMatchAndMask := by
  intro cmd
  simp only [decode_eq_ok_iff, ← countField_toNat, ← addrField_toNat, ← writeCountOk_iff, ← readAddressOk_iff]
  exact ⟨⟨fun ⟨_, _, .init hm⟩ => hm, fun hm => ⟨_, _, .init hm⟩⟩,
    ⟨fun ⟨_, .keyw hm⟩ => hm, fun hm => ⟨_, .keyw hm⟩⟩,
    ⟨fun ⟨_, .write hm hn⟩ => ⟨hm, hn⟩, fun ⟨hm, hn⟩ => ⟨_, .write hm hn⟩⟩,
    ⟨fun (.sum hm) => hm, .sum⟩,
    ⟨fun (.reset hm) => hm, .reset⟩,
    ⟨fun ⟨_, .read hm ha⟩ => ⟨hm, ha⟩, fun ⟨hm, ha⟩ => ⟨_, .read hm ha⟩⟩⟩

/-- Settles O9: the operands are the word's fields, and a field is the number its bits spell. -/
theorem decodedFieldsAreTheirBits : Obligations.DecodedFieldsAreTheirBits := by
  intro cmd
  simp only [decode_eq_ok_iff]
  exact ⟨fun _ _ (.init _) => ⟨nnField_toNat cmd, kkField_toNat cmd⟩, fun _ (.keyw _) => countField_toNat cmd,
    fun _ (.write _ _) => countField_toNat cmd, fun _ (.read _ _) => addrField_toNat cmd⟩

/-- Settles O10: the decoder, run on each word of R80's table. -/
theorem encodingExamples : Obligations.EncodingExamples := by
  unfold Obligations.EncodingExamples
  decide

/-! ## The data word -/

/-- `CommandEffect` says what `exec` answers: the converse of `exec_effect`. -/
theorem CommandEffect.exec_eq {s : State} {i : Instr} {b : Block} {w : Word} (h : CommandEffect s i b w) :
    exec i s = .next (s.answer b w) := by
  cases h with
  | keyw idx => exact exec_keyw idx s
  | init nn kk ok => exact exec_init_ok ok s
  | initFails nn kk bad => exact exec_init_fail bad s
  | write n hn hc => exact exec_write_ok hn hc
  | sum hc => exact exec_sum_ok hc
  | reset hc => exact exec_reset_ok hc
  | read addr r hr => exact exec_read_some hr s
  | writeUnconfigured n hn hc => exact exec_write_unconfigured hn hc
  | sumUnconfigured hc => exact exec_sum_unconfigured hc
  | resetUnconfigured hc => exact exec_reset_unconfigured hc
  | writeIllFormed n hn => exact exec_write_ill hn s
  | readIllFormed addr hr => exact exec_read_none hr s

theorem streamBytes_congr {n : BitVec 3} {v w : Word} (h : ∀ j < n.toNat, lane v j = lane w j) :
    streamBytes n v = streamBytes n w :=
  List.map_congr_left fun j hj => h j (List.mem_range.1 hj)

/-- A command other than KEYW has the same effect under every data word with the lanes WRITE takes (30_encoding.md R76). -/
theorem CommandEffect.of_same_lanes {s : State} {i : Instr} {b : Block} {r w : Word} (h : CommandEffect s i b r)
    (hk : ¬ ∃ idx, i = .keyw idx) (hl : ∀ n, i = .write n → ∀ j < n.toNat, lane w j = lane s.wdata j) :
    CommandEffect { s with wdata := w } i b r := by
  cases h with
  | keyw idx => exact absurd ⟨idx, rfl⟩ hk
  | write n hn hc =>
    have hw : writeBlock n w s.toBlock = writeBlock n s.wdata s.toBlock := by
      rw [writeBlock, writeBlock, streamBytes_congr (hl n rfl)]
    rw [← hw]
    exact .write n hn hc
  | init nn kk ok => exact .init nn kk ok
  | initFails nn kk bad => exact .initFails nn kk bad
  | sum hc => exact .sum hc
  | reset hc => exact .reset hc
  | read addr r hr => exact .read addr r hr
  | writeUnconfigured n hn hc => exact .writeUnconfigured n hn hc
  | sumUnconfigured hc => exact .sumUnconfigured hc
  | resetUnconfigured hc => exact .resetUnconfigured hc
  | writeIllFormed n hn => exact .writeIllFormed n hn
  | readIllFormed addr hr => exact .readIllFormed addr hr

/-- Settles O32: under the other data word the command has the effect it had, on the same block and results. -/
theorem unusedDataLanesAreIgnored : Obligations.UnusedDataLanesAreIgnored := by
  intro i s t u w hk hl ht hu
  obtain ⟨b, r, rfl, heff⟩ := exec_inv ht
  rw [(heff.of_same_lanes hk hl).exec_eq] at hu
  injection hu with hu
  exact hu ▸ ⟨rfl, rfl⟩

end Sys2Proof.Machine

/-! PROOFS. The compression core (40_compression_core.md): a message word's bytes, the working vector, G as two passes of one
shape, and F as the ten rounds one after another. -/

namespace Sys2Proof.Machine

/-! ## What enters the rounds -/

/-- Settles O44: the message word is LE32 of the block's four bytes. -/
theorem messageWordsAreLittleEndian : Obligations.MessageWordsAreLittleEndian := by
  intro block i j
  rw [Fin.getElem_fin, messageWords_getElem, lane_le32 _ _ _ _ _ j.isLt]
  fin_cases j <;> rfl

/-- Settles O45: the vector's sixteen entries, the halves of t by width and by shift. -/
theorem workingVectorInitialisation : Obligations.WorkingVectorInitialisation := by
  intro h t final
  refine ⟨fun i => ?hWords, fun i => ?ivWords, ?low, ?high, rfl, rfl⟩
  case hWords | ivWords => fin_cases i <;> rfl
  case low => exact congrArg (iv[4] ^^^ ·) (BitVec.setWidth_eq_extractLsb' (by omega)).symm
  case high => exact congrArg (iv[5] ^^^ ·) BitVec.setWidth_ushiftRight_eq_extractLsb.symm

/-- Settles O48: the ten rows, searched for each of the sixteen indices. -/
theorem scheduleRowsArePermutations : Obligations.ScheduleRowsArePermutations := by
  unfold Obligations.ScheduleRowsArePermutations
  decide

/-! ## The mixing operation -/

theorem rotr32_eq_rotateRight (x : Word) {n : Nat} (h : n < 32) : rotr32 x n = x.rotateRight n := by
  rw [rotr32, BitVec.rotateRight_def, Nat.mod_eq_of_lt h]

/-- Four of the eight lines of G (40_compression_core.md R104); the upper four and the lower four differ in the message word
and in the rotations `p` and `q`. -/
def mixHalf (v : Vector Word 16) (a b c d : Fin 16) (x : Word) (p q : Nat) : Vector Word 16 :=
  let v := v.set a (v[a] + v[b] + x)
  let v := v.set d (rotr32 (v[d] ^^^ v[a]) p)
  let v := v.set c (v[c] + v[d])
  v.set b (rotr32 (v[b] ^^^ v[c]) q)

theorem mix_eq_mixHalf (v : Vector Word 16) (a b c d : Fin 16) (x y : Word) :
    mix v a b c d x y = mixHalf (mixHalf v a b c d x 16 12) a b c d y 8 7 := rfl

/-- `w` is `v` after four lines of G: each line in the words of `v` and the new words of the lines above it. -/
structure HalfMixed (v w : Vector Word 16) (a b c d : Fin 16) (x : Word) (p q : Nat) : Prop where
  word_a : w[a] = v[a] + v[b] + x
  word_d : w[d] = (v[d] ^^^ w[a]).rotateRight p
  word_c : w[c] = v[c] + w[d]
  word_b : w[b] = (v[b] ^^^ w[c]).rotateRight q
  frame : ∀ k : Fin 16, k ∉ [a, b, c, d] → w[k] = v[k]

theorem getElem_set_fin (v : Vector Word 16) (i k : Fin 16) (x : Word) : (v.set i x)[k] = if k = i then x else v[k] := by
  simp [Vector.getElem_set, Fin.ext_iff, eq_comm]

theorem halfMixed_mixHalf (v : Vector Word 16) {a b c d : Fin 16} (h : [a, b, c, d].Nodup) (x : Word) {p q : Nat}
    (hp : p < 32) (hq : q < 32) : HalfMixed v (mixHalf v a b c d x p q) a b c d x p q := by
  simp only [List.nodup_cons, List.mem_cons, List.not_mem_nil, or_false, not_or, ← ne_eq] at h
  obtain ⟨⟨hab, hac, had⟩, ⟨hbc, hbd⟩, hcd, -⟩ := h
  constructor
  case frame =>
    intro k hk
    simp only [List.mem_cons, List.not_mem_nil, or_false, not_or] at hk
    obtain ⟨hka, hkb, hkc, hkd⟩ := hk
    simp only [mixHalf, getElem_set_fin, hka, hkb, hkc, hkd, if_false]
  all_goals
    simp only [mixHalf, getElem_set_fin, rotr32_eq_rotateRight _ hp, rotr32_eq_rotateRight _ hq, if_true, if_false,
      hab, hac, had, hbc, hbd, hcd, hab.symm, hac.symm, had.symm, hbc.symm, hbd.symm, hcd.symm]

/-- Settles O46: the second pass of four lines starts from what the first one left. -/
theorem mixingOperation : Obligations.MixingOperation := by
  intro v a b c d x y h
  have first := halfMixed_mixHalf v h x (p := 16) (q := 12) (by omega) (by omega)
  have second := halfMixed_mixHalf (mixHalf v a b c d x 16 12) h y (p := 8) (q := 7) (by omega) (by omega)
  rw [← mix_eq_mixHalf] at second
  exact ⟨_, _, _, _, _, _, _, _, first.word_a, first.word_d, first.word_c, first.word_b, second.word_a, second.word_d,
    second.word_c, second.word_b, rfl, rfl, rfl, rfl, fun k hk => (second.frame k hk).trans (first.frame k hk)⟩

/-! ## The compression function -/

/-- The working vector `v` after the first `n` rounds (40_compression_core.md R108). -/
def roundsUpTo (m v : Vector Word 16) (n : Nat) : Vector Word 16 := (sigma.toList.take n).foldl (mixRound m) v

theorem roundsUpTo_succ (m v : Vector Word 16) (r : Fin 10) :
    roundsUpTo m v (r + 1) = mixRound m (roundsUpTo m v r) sigma[r] := by
  have hr : r.val < sigma.toList.length := r.isLt
  rw [roundsUpTo, List.take_succ_eq_append_getElem hr, List.foldl_append]
  rfl

theorem roundsUpTo_ten (m v : Vector Word 16) : roundsUpTo m v 10 = mixRounds m v := rfl

/-- The output of F folds both halves of the mixed vector into h (40_compression_core.md R109). -/
theorem compress_getElem {h : Vector Word 8} {block : Vector Byte 64} {t : Counter} {final : Bool} {v : Vector Word 16}
    (hv : v = mixRounds (messageWords block) (workingVector h t final)) (i : Fin 8) :
    (compress h block t final)[i] = h[i] ^^^ v[i.val] ^^^ v[i.val + 8] := by
  subst hv
  rw [compress]
  fin_cases i <;> rfl

/-- Settles O47: `roundsUpTo` names the vector after each round. -/
theorem compressionOutput : Obligations.CompressionOutput := fun h block t final =>
  ⟨fun r => roundsUpTo (messageWords block) (workingVector h t final) r, rfl, roundsUpTo_succ _ _,
    compress_getElem (roundsUpTo_ten _ _)⟩

end Sys2Proof.Machine

/-! PROOFS. Construct (41_construct.md): KEYW into the staging key; INIT in range, which starts a context from its operands and
the key bytes below KK; and INIT out of range, after which no command finds a context until an INIT in range. -/

namespace Sys2Proof.Machine

/-- The port after an answer, whatever block the command leaves. -/
theorem State.answer_returned (s : State) (b : Block) (w : Word) : Returned s (s.answer b w) w := ⟨rfl, rfl, rfl⟩

/-! ## KEYW -/

/-- The four bytes of the word that KEYW names are the lanes of wdata (20_memory.md R51(d)). -/
theorem stageKeyWord_staged (key : Vector Byte 32) (idx : BitVec 3) (w : Word) (j : Fin 4) :
    (stageKeyWord key idx w)[4 * idx.toNat + j.val]? = some (lane w j.val) := by
  have hk : 4 * idx.toNat + j.val < 32 := by omega
  have hword : (4 * idx.toNat + j.val) / 4 = idx.toNat := by omega
  have hlane : (4 * idx.toNat + j.val) % 4 = j.val := by omega
  rw [Vector.getElem?_eq_getElem hk, stageKeyWord_getElem, if_pos hword, hlane]

theorem stageKeyWord_frame (key : Vector Byte 32) {idx : BitVec 3} (w : Word) {k : Fin 32} (hk : k.val / 4 ≠ idx.toNat) :
    (stageKeyWord key idx w)[k] = key[k] := by
  rw [Fin.getElem_fin, stageKeyWord_getElem, if_neg hk, Fin.getElem_fin]

/-- Settles O13: KEYW always succeeds, and its block differs in the staged word and ERR alone. -/
theorem keywStagesFourBytes : Obligations.KeywStagesFourBytes := fun idx s =>
  ⟨_, (exec_keyw idx s).trans (succeed_eq _ s), stageKeyWord_staged s.kstage idx s.wdata,
    fun _ hk => stageKeyWord_frame s.kstage s.wdata hk, ⟨rfl, rfl, rfl, rfl⟩, ⟨rfl, rfl, rfl, rfl⟩, ⟨rfl, rfl⟩, rfl, rfl,
    s.answer_returned _ _⟩

/-! ## INIT in range -/

theorem initialChaining_zero (nn kk : BitVec 6) :
    (initialChaining nn kk)[0] = 0x6A09E667#32 ^^^ (0x01010000#32 ^^^ (kk.setWidth 32 <<< 8) ^^^ nn.setWidth 32) :=
  Vector.getElem_set_self _

theorem initialChaining_of_ne_zero (nn kk : BitVec 6) {i : Fin 8} (hi : i ≠ 0) : (initialChaining nn kk)[i] = iv[i] :=
  Vector.getElem_set_ne _ _ (fun e => hi (Fin.ext e.symm))

theorem contextInit_buf_of_key {b : Block} (hk : b.kk ≠ 0) : (contextInit b).buf = keyBlock b.ckey := if_neg hk

theorem keyBlock_key (key : Vector Byte 32) (k : Fin 32) : (keyBlock key)[k.val] = key[k] := by
  rw [keyBlock_getElem, dif_pos k.isLt, Fin.getElem_fin]

theorem keyBlock_padding (key : Vector Byte 32) {k : Fin 64} (hk : 32 ≤ k.val) : (keyBlock key)[k] = 0 := by
  rw [Fin.getElem_fin, keyBlock_getElem, dif_neg (Nat.not_lt.mpr hk)]

/-- ContextInit with no key: nothing is pending (41_construct.md R135). -/
theorem contextInit_no_key {b : Block} (hk : b.kk = 0) :
    (contextInit b).offset = 0 ∧ ∀ k : Fin 64, (contextInit b).buf[k] = 0 := by
  refine ⟨contextInit_offset_of_no_key hk, fun k => ?_⟩
  rw [contextInit_buf_of_no_key hk]
  exact Vector.getElem_replicate _

/-- ContextInit with a key: the key, padded with zeros, is pending as one block (41_construct.md R135). -/
theorem contextInit_key {b : Block} (hk : b.kk ≠ 0) :
    (contextInit b).offset = 64 ∧ (∀ k : Fin 32, (contextInit b).buf[k.val] = b.ckey[k]) ∧
      ∀ k : Fin 64, 32 ≤ k.val → (contextInit b).buf[k] = 0 := by
  rw [contextInit_buf_of_key hk]
  exact ⟨contextInit_offset_of_key hk, keyBlock_key b.ckey, fun _ => keyBlock_padding b.ckey⟩

theorem latchParameters_ckey_getElem (nn kk : BitVec 6) (b : Block) (j : Fin 32) :
    (latchParameters nn kk b).ckey[j] = if j.val < kk.toNat then b.kstage[j] else 0 :=
  latchedKey_getElem kk b.kstage j.val j.isLt

/-- Settles O14: INIT latches its operands and the key, and ContextInit starts the stream from them. -/
theorem initConstructsTheContext : Obligations.InitConstructsTheContext := by
  intro nn kk s hnn hnn' hkk
  have ok : initLengthsOk nn kk = true := (initLengthsOk_iff nn kk).2 ⟨hnn, hnn', hkk⟩
  have hckey := latchParameters_ckey_getElem nn kk s.toBlock
  refine ⟨_, (exec_init_ok ok s).trans (succeed_eq _ s), rfl, rfl, rfl, hckey, rfl, initialChaining_zero nn kk,
    fun _ => initialChaining_of_ne_zero nn kk, rfl, fun hk => ?noKey, fun hk => ?key, fun i => ?digest, rfl, rfl, rfl,
    s.answer_returned _ _⟩
  case noKey => exact contextInit_no_key (b := latchParameters nn kk s.toBlock) hk
  case key =>
    obtain ⟨hoffset, hlow, hhigh⟩ := contextInit_key (b := latchParameters nn kk s.toBlock) hk
    exact ⟨hoffset, fun k => (hlow k).trans (hckey k), hhigh⟩
  case digest => exact Vector.getElem_replicate _

/-! ## INIT out of range -/

theorem initLengthsOk_eq_false_iff (nn kk : BitVec 6) :
    initLengthsOk nn kk = false ↔ nn.toNat < 1 ∨ 32 < nn.toNat ∨ 32 < kk.toNat := by
  rw [← Bool.not_eq_true, initLengthsOk_iff]
  omega

/-- A property of the block that each admitted command keeps holds after any run of them. -/
theorem runCommands_keeps {P : Block → Prop} {admitted : Instr → Prop}
    (kept : ∀ {s i b w}, CommandEffect s i b w → admitted i → P s.toBlock → P b) :
    ∀ (cs : List (Instr × Word)) {s u : State}, (∀ c ∈ cs, admitted c.1) → runCommands cs s = .next u → P s.toBlock →
      P u.toBlock := by
  intro cs
  induction cs with
  | nil =>
    intro s u _ hrun hs
    injection hrun with hsu
    exact hsu ▸ hs
  | cons c cs ih =>
    intro s u hcs hrun hs
    obtain ⟨hc, hrest⟩ := List.forall_mem_cons.1 hcs
    obtain ⟨b, w, hexec, heff⟩ := exec_effect c.1 { s with wdata := c.2 }
    rw [runCommands_cons, hexec] at hrun
    exact ih hrest hrun (kept heff hc hs)

/-- Only an INIT in range gives an unconfigured block a context (41_construct.md R134). -/
theorem CommandEffect.stays_unconfigured {s : State} {i : Instr} {b : Block} {w : Word} (h : CommandEffect s i b w)
    (hi : ∀ nn kk, i = .init nn kk → initLengthsOk nn kk = false) (hs : s.configured = false) : b.configured = false := by
  by_cases hinit : ∃ nn kk, i = .init nn kk
  · obtain ⟨nn, kk, rfl⟩ := hinit
    cases h with
    | init _ _ ok => simp [hi nn kk rfl] at ok
    | initFails => rfl
  · exact (h.sameParameters fun nn kk e => hinit ⟨nn, kk, e⟩).configured.trans hs

/-- The three commands that need a context, on a block without one (60_exceptions.md R212). -/
theorem exec_without_context {s : State} (hs : s.configured = false) {i : Instr}
    (hi : i = .sum ∨ i = .reset ∨ ∃ n : BitVec 3, n.toNat ≤ 4 ∧ i = .write n) :
    exec i s = raiseError .notConfigured s.toBlock s := by
  obtain rfl | rfl | ⟨n, hn, rfl⟩ := hi
  · exact exec_sum_unconfigured hs
  · exact exec_reset_unconfigured hs
  · exact exec_write_unconfigured hn hs

theorem recordError_sameButErrorRecord (b : Block) (e : ErrorKind) : (b.recordError e).SameButErrorRecord b :=
  ⟨⟨rfl, rfl, rfl, rfl⟩, rfl, ⟨rfl, rfl, rfl, rfl⟩, ⟨rfl, rfl⟩⟩

/-- Settles O15: InitFail clears the context, and a run with no INIT in range leaves the block without one. -/
theorem initOutOfRangeDiscardsTheContext : Obligations.InitOutOfRangeDiscardsTheContext := by
  intro nn kk s hbad
  have bad : initLengthsOk nn kk = false := (initLengthsOk_eq_false_iff nn kk).2 hbad
  refine ⟨_, (exec_init_fail bad s).trans (raiseError_eq _ _ s), rfl, rfl, rfl, fun j => ?ckey, fun i => ?h, rfl, fun k => ?buf,
    rfl, fun i => ?digest, rfl, rfl, rfl, rfl, s.answer_returned _ _, fun cs u hcs hrun i hi => ?after⟩
  case ckey | h | buf | digest => exact Vector.getElem_replicate _
  case after =>
    have hu : u.configured = false :=
      runCommands_keeps (P := fun b => b.configured = false) CommandEffect.stays_unconfigured cs
        (fun c hc nn' kk' e => (initLengthsOk_eq_false_iff nn' kk').2 (hcs c hc nn' kk' e)) hrun rfl
    exact ⟨_, (exec_without_context hu hi).trans (raiseError_eq _ _ u), rfl, recordError_sameButErrorRecord _ _⟩

/-! ## What INIT depends on -/

/-- Staging bytes from KK on are not latched (41_construct.md R133, R138(c)). -/
theorem latchedKey_congr {kk : BitVec 6} {a b : Vector Byte 32} (h : ∀ j : Fin 32, j.val < kk.toNat → a[j] = b[j]) :
    latchedKey kk a = latchedKey kk b := by
  ext j hj : 1
  rw [latchedKey_getElem, latchedKey_getElem]
  split
  · next hlt => exact h ⟨j, hj⟩ hlt
  · rfl

/-- Settles O33: in range the context is built from NN, KK and the latched key alone; out of range nothing of it is left. -/
theorem initDependsOnTheKeyPrefixAlone : Obligations.InitDependsOnTheKeyPrefixAlone := by
  intro nn kk a b a' b' hkey ha hb
  cases hok : initLengthsOk nn kk with
  | true =>
    have hckey : latchedKey kk a.kstage = latchedKey kk b.kstage := latchedKey_congr hkey
    obtain ⟨hh, ht, hbuf, hoff⟩ := contextInit_sameStream (a := latchParameters nn kk a.toBlock)
      (b := latchParameters nn kk b.toBlock) rfl rfl hckey
    rw [exec_toBlock_of_succeed ha (exec_init_ok hok a), exec_toBlock_of_succeed hb (exec_init_ok hok b)]
    exact ⟨⟨rfl, rfl, rfl, hckey⟩, ⟨hh, ht, hbuf, hoff⟩, ⟨rfl, rfl⟩, rfl⟩
  | false =>
    rw [exec_toBlock_of_raiseError ha (exec_init_fail hok a), exec_toBlock_of_raiseError hb (exec_init_fail hok b)]
    exact ⟨⟨rfl, rfl, rfl, rfl⟩, ⟨rfl, rfl, rfl, rfl⟩, ⟨rfl, rfl⟩, rfl⟩

end Sys2Proof.Machine

/-! PROOFS. Write (42_write.md): the running stream depends on the bytes alone, however commands cut and interleave them; and
one WRITE element by element, within the block and across its end. -/

namespace Sys2Proof.Machine

/-! ## Streaming equivalence -/

theorem Block.SameStream.symm {a b : Block} (h : a.SameStream b) : b.SameStream a :=
  ⟨h.h.symm, h.t.symm, h.buf.symm, h.offset.symm⟩

theorem Block.SameStream.trans {a b c : Block} (hab : a.SameStream b) (hbc : b.SameStream c) : a.SameStream c :=
  ⟨hab.h.trans hbc.h, hab.t.trans hbc.t, hab.buf.trans hbc.buf, hab.offset.trans hbc.offset⟩

theorem Block.SameParameters.trans {a b c : Block} (hab : a.SameParameters b) (hbc : b.SameParameters c) :
    a.SameParameters c :=
  ⟨hab.configured.trans hbc.configured, hab.nn.trans hbc.nn, hab.kk.trans hbc.kk, hab.ckey.trans hbc.ckey⟩

theorem writtenBytes_cons (c : Instr × Word) (cs : List (Instr × Word)) :
    writtenBytes (c :: cs) = bytesOf c ++ writtenBytes cs := List.flatMap_cons

/-- With a context a WRITE absorbs its bytes, and SUM, KEYW and READ absorb none and leave the stream (42_write.md R153). -/
theorem CommandEffect.absorbs {s : State} {i : Instr} {b : Block} {w : Word} (h : CommandEffect s i b w)
    (hi : streaming i = true) (hc : s.configured = true) :
    b.SameStream (absorbAll s.toBlock (bytesOf (i, s.wdata))) := by
  cases h with
  | init | initFails | reset | resetUnconfigured => cases hi
  | writeUnconfigured n hn hc' | sumUnconfigured hc' => simp [hc] at hc'
  | writeIllFormed n hn => exact absurd ((writeCountOk_iff n).1 hi) hn
  | keyw | write | sum | read | readIllFormed => exact ⟨rfl, rfl, rfl, rfl⟩

/-- A streaming run completes: it leaves the stream after its bytes, and the context's parameters. -/
theorem runCommands_absorbs : ∀ (cs : List (Instr × Word)) {s : State}, s.configured = true →
    (∀ c ∈ cs, streaming c.1 = true) →
      ∃ t, runCommands cs s = .next t ∧ t.toBlock.SameStream (absorbAll s.toBlock (writtenBytes cs)) ∧
        t.toBlock.SameParameters s.toBlock := by
  intro cs
  induction cs with
  | nil => exact fun _ _ => ⟨_, rfl, ⟨rfl, rfl, rfl, rfl⟩, ⟨rfl, rfl, rfl, rfl⟩⟩
  | cons c cs ih =>
    intro s hs hcs
    obtain ⟨hc, hrest⟩ := List.forall_mem_cons.1 hcs
    obtain ⟨b, w, hexec, heff⟩ := exec_effect c.1 { s with wdata := c.2 }
    have hstream : b.SameStream (absorbAll s.toBlock (bytesOf c)) := heff.absorbs hc hs
    have hparams : b.SameParameters s.toBlock := heff.sameParameters fun nn kk e => by simp [e, streaming] at hc
    obtain ⟨t, hrun, hts, htp⟩ := ih (s := State.answer { s with wdata := c.2 } b w) (hparams.configured.trans hs) hrest
    refine ⟨t, by rw [runCommands_cons, hexec]; exact hrun, ?_, htp.trans hparams⟩
    rw [writtenBytes_cons, absorbAll_append]
    exact hts.trans (absorbAll_sameStream hstream _)

theorem exec_sum_digest {s : State} (hc : s.configured = true) :
    ∃ t, exec .sum s = .next t ∧ t.digest = streamDigest s.toBlock :=
  ⟨_, (exec_sum_ok hc).trans (succeed_eq _ s), rfl⟩

/-- Settles O42: both runs absorb the same bytes into the same block, and the digest is a function of the stream and NN. -/
theorem streamingEquivalence : Obligations.StreamingEquivalence := by
  intro s cs ds hs hcs hds hbytes
  obtain ⟨t, hrunT, hstreamT, hparamsT⟩ := runCommands_absorbs cs hs hcs
  obtain ⟨u, hrunU, hstreamU, hparamsU⟩ := runCommands_absorbs ds hs hds
  obtain ⟨t', hsumT, hdigestT⟩ := exec_sum_digest (hparamsT.configured.trans hs)
  obtain ⟨u', hsumU, hdigestU⟩ := exec_sum_digest (hparamsU.configured.trans hs)
  have hsame : t.toBlock.SameStream u.toBlock := (hbytes ▸ hstreamT).trans hstreamU.symm
  refine ⟨t, u, t', u', hrunT, hrunU, hsame, hsumT, hsumU, ?_⟩
  calc t'.digest = streamDigest t.toBlock := hdigestT
    _ = streamDigest u.toBlock := streamDigest_congr hsame (hparamsT.nn.trans hparamsU.nn.symm)
    _ = u'.digest := hdigestU.symm

/-! ## WRITE within the block -/

/-- WRITE with a context: the bytes are absorbed and the outcome is OK (42_write.md R151). -/
theorem exec_write_next {n : BitVec 3} {s : State} (hn : n.toNat ≤ 4) (hc : s.configured = true) :
    exec (.write n) s = .next (s.answer (writeBlock n s.wdata s.toBlock).recordOk
      (statusWord (writeBlock n s.wdata s.toBlock).recordOk)) :=
  (exec_write_ok hn hc).trans (succeed_eq _ s)

/-- Settles O16: the lanes fit, so they are appended and nothing is compressed. -/
theorem writeAppendsWithinTheBlock : Obligations.WriteAppendsWithinTheBlock := by
  intro n s hn hc hfit
  obtain ⟨hconf, hnn, hkk, hks, hckey, hdig, -, -, hsticky⟩ := writeBlock_frame n s.wdata s.toBlock
  obtain ⟨hoff, hh, ht, hbuf⟩ := absorbAll_within (streamBytes n s.wdata) (b := s.toBlock) (by simpa using hfit)
  simp only [streamBytes_length, streamBytes_getElem] at hoff hbuf
  exact ⟨_, exec_write_next hn hc, hoff, fun k => hbuf k k.isLt, hh, ht, ⟨hconf, hnn, hkk, hckey⟩, hks, hdig,
    fun h0 => writeBlock_clears_digestValid h0 s.wdata s.toBlock,
    fun h0 => h0 ▸ writeBlock_keeps_digestValid s.wdata s.toBlock, rfl, hsticky, s.answer_returned _ _⟩

/-! ## WRITE across the end of the block -/

/-- A full buffer is compressed before the next byte, whichever it is (42_write.md R150). -/
theorem absorbAll_of_full {b : Block} (hf : b.offset = 64) {xs : List Byte} (hxs : xs ≠ []) :
    absorbAll b xs = absorbAll (compressFull b) xs := by
  obtain ⟨x, xs, rfl⟩ := List.exists_cons_of_ne_nil hxs
  rw [absorbAll_cons, absorbAll_cons, absorb_of_full hf, absorb_of_not_full (by simp)]

/-- Bytes `xs` that complete the block, then bytes `ys` that start the next one: the block is compressed once, between the
two (42_write.md R151, R155(d)). -/
theorem absorbAll_across {b : Block} {xs ys : List Byte} (hx : b.offset.toNat + xs.length = 64) (hy : ys ≠ [])
    (hlen : ys.length ≤ 64) :
    (absorbAll b (xs ++ ys)).t = b.t + 64 ∧
      (absorbAll b (xs ++ ys)).h = compress b.h (absorbAll b xs).buf (b.t + 64) false ∧
      (absorbAll b (xs ++ ys)).offset.toNat = ys.length ∧
      ∀ k (hk : k < 64), (absorbAll b (xs ++ ys)).buf[k] = if h : k < ys.length then ys[k] else 0 := by
  obtain ⟨hoff, hh, ht, -⟩ := absorbAll_within xs (b := b) hx.le
  have hf : (absorbAll b xs).offset = 64 := BitVec.eq_of_toNat_eq (hoff.trans hx)
  obtain ⟨hoff', hh', ht', hbuf'⟩ := absorbAll_within ys (b := compressFull (absorbAll b xs)) (by simpa using hlen)
  rw [absorbAll_append, absorbAll_of_full hf hy]
  refine ⟨?t, ?h, ?offset, fun k hk => ?buf⟩
  case t => rw [ht', compressFull_t, ht]
  case h => rw [hh', compressFull_h, hh, ht]
  case offset => simpa using hoff'
  case buf => simpa using hbuf' k hk

/-- The block that bytes `xs` complete: the bytes pending before, then `xs`. -/
theorem absorbAll_buf_of_completes {b : Block} {xs : List Byte} (hx : b.offset.toNat + xs.length = 64) (k : Nat)
    (hk : k < 64) :
    (absorbAll b xs).buf[k] = if h : k < b.offset.toNat then b.buf[k] else xs[k - b.offset.toNat]'(by omega) := by
  obtain ⟨-, -, -, hbuf⟩ := absorbAll_within xs hx.le
  rw [hbuf k hk]
  by_cases hlt : k < b.offset.toNat
  · rw [dif_neg (by omega), dif_pos hlt]
  · rw [dif_pos (by omega), dif_neg hlt]

/-- Settles O17: the lanes that fit complete the block, and the others start the next one. -/
theorem writeCompressesAcrossTheBlockEnd : Obligations.WriteCompressesAcrossTheBlockEnd := by
  intro n s hn hc ho hover
  have hne : n ≠ 0 := by
    rintro rfl
    exact absurd ho (Nat.not_le.mpr hover)
  obtain ⟨hconf, hnn, hkk, hks, hckey, hdig, -, -, hsticky⟩ := writeBlock_frame n s.wdata s.toBlock
  have hlenX : s.offset.toNat + ((streamBytes n s.wdata).take (64 - s.offset.toNat)).length = 64 := by
    rw [List.length_take, streamBytes_length]; omega
  have hlenY : ((streamBytes n s.wdata).drop (64 - s.offset.toNat)).length = s.offset.toNat + n.toNat - 64 := by
    rw [List.length_drop, streamBytes_length]; omega
  have hfull := absorbAll_buf_of_completes (b := s.toBlock) hlenX
  obtain ⟨ht, hh, hoff, hbuf⟩ := absorbAll_across (b := s.toBlock)
    (ys := (streamBytes n s.wdata).drop (64 - s.offset.toNat)) hlenX (List.ne_nil_of_length_pos (by omega)) (by omega)
  rw [List.take_append_drop] at ht hh hoff hbuf
  simp only [hlenY, List.getElem_take, List.getElem_drop, streamBytes_getElem, dite_eq_ite] at hfull hoff hbuf
  refine ⟨_, _, exec_write_next hn hc, fun k => hfull k k.isLt, ht, hh, hoff, fun k => ?buf, ⟨hconf, hnn, hkk, hckey⟩,
    hks, hdig, writeBlock_clears_digestValid hne s.wdata s.toBlock, rfl, hsticky, s.answer_returned _ _⟩
  case buf =>
    have hlane : k.val + 64 - s.offset.toNat = 64 - s.offset.toNat + k.val := by omega
    exact hlane ▸ hbuf k k.isLt

end Sys2Proof.Machine

/-! PROOFS. Finalization (43_finalization.md): the digest SUM writes, byte by byte; SUM leaves the stream, so that commands after
it go on from where they were; and t + OFFSET, the count SUM hands to F, is the number of bytes absorbed. -/

namespace Sys2Proof.Machine

/-! ## SUM -/

/-- SUM with a context: the digest is written and the outcome is OK (43_finalization.md R170). -/
theorem exec_sum_next {s : State} (hc : s.configured = true) :
    exec .sum s = .next (s.answer (sumBlock s.toBlock).recordOk (statusWord (sumBlock s.toBlock).recordOk)) :=
  (exec_sum_ok hc).trans (succeed_eq _ s)

/-- Byte k of DIGEST is byte k of the serialized final state below NN, and zero from there (43_finalization.md R171). -/
theorem lane_streamDigest (b : Block) (k : Fin 32) :
    lane ((streamDigest b)[k.val / 4]'(by omega)) (k.val % 4) =
      if k.val < b.nn.toNat then lane ((finalState b)[k.val / 4]'(by omega)) (k.val % 4) else 0 := by
  rw [streamDigest, lane_digestWords _ _ _ _ _ (Nat.mod_lt _ (by decide)), digestByte, Nat.div_add_mod]

/-- Settles O18: the final block and the final state are those the model compresses, and only DIGEST, DIGEST_VALID and ERR
are written. -/
theorem sumComputesTheDigest : Obligations.SumComputesTheDigest := fun s hc =>
  ⟨_, finalBlock s.toBlock, finalState s.toBlock, exec_sum_next hc, fun k => finalBlock_getElem s.toBlock k k.isLt, rfl,
    lane_streamDigest s.toBlock, rfl, ⟨rfl, rfl, rfl, rfl⟩, ⟨rfl, rfl, rfl, rfl⟩, rfl, rfl, rfl, s.answer_returned _ _⟩

/-! ## The stream after SUM -/

/-- A streaming run that writes no byte completes, and a SUM after it makes the digest of the stream before it. -/
theorem exec_sum_after_no_bytes {s : State} (hs : s.configured = true) {cs : List (Instr × Word)}
    (hcs : ∀ c ∈ cs, streaming c.1 = true) (hbytes : writtenBytes cs = []) :
    ∃ u v, runCommands cs s = .next u ∧ exec .sum u = .next v ∧ v.digest = streamDigest s.toBlock := by
  obtain ⟨u, hrun, hstream, hparams⟩ := runCommands_absorbs cs hs hcs
  rw [hbytes, absorbAll_nil] at hstream
  obtain ⟨v, hsum, hdigest⟩ := exec_sum_digest (hparams.configured.trans hs)
  exact ⟨u, v, hrun, hsum, hdigest.trans (streamDigest_congr hstream hparams.nn)⟩

/-- WRITE of the same bytes into the same stream leaves the same stream, whatever else the blocks hold (42_write.md R151). -/
theorem exec_write_sameStream {n : BitVec 3} {s t : State} (hn : n.toNat ≤ 4) (hs : s.configured = true)
    (ht : t.configured = true) (hsame : s.toBlock.SameStream t.toBlock) (hw : s.wdata = t.wdata) :
    ∃ u v, exec (.write n) s = .next u ∧ exec (.write n) t = .next v ∧ u.toBlock.SameStream v.toBlock := by
  obtain ⟨hh, hcount, hbuf, hoff⟩ := absorbAll_sameStream hsame (streamBytes n t.wdata)
  refine ⟨_, _, exec_write_next hn hs, exec_write_next hn ht, ?_⟩
  rw [hw]
  exact ⟨hh, hcount, hbuf, hoff⟩

theorem sumBlock_recordOk_sameStream (b : Block) : (sumBlock b).recordOk.SameStream b := ⟨rfl, rfl, rfl, rfl⟩

/-- Settles O35: SUM keeps the stream and NN, of which the digest is a function, and the stream a WRITE continues. -/
theorem sumDoesNotChangeTheStream : Obligations.SumDoesNotChangeTheStream := by
  intro s hc
  have hsame := sumBlock_recordOk_sameStream s.toBlock
  refine ⟨_, exec_sum_next hc, hsame, fun cs hcs hbytes => ?sumAgain, fun n w hn => ?write⟩
  case sumAgain =>
    obtain ⟨u, v, hrun, hsum, hdigest⟩ :=
      exec_sum_after_no_bytes (s := s.answer (sumBlock s.toBlock).recordOk _) hc hcs hbytes
    exact ⟨u, v, hrun, hsum, hdigest.trans (streamDigest_congr hsame rfl)⟩
  case write => exact exec_write_sameStream hn hc hc hsame rfl

/-! ## The count of bytes -/

theorem totalBytes_contextInit (b : Block) : totalBytes (contextInit b) = if b.kk = 0 then 0 else 64 := by
  rw [totalBytes, contextInit_t, contextInit_offset]
  split <;> rfl

/-- One byte adds 1 to t + OFFSET: on a full buffer 64 moves from OFFSET to t first (10_state.md R27(d)). -/
theorem totalBytes_absorb {b : Block} (h : b.offset.toNat ≤ 64) (x : Byte) :
    totalBytes (absorb b x) = totalBytes b + 1#64 := by
  by_cases hf : b.offset = 64
  · rw [absorb_of_full hf, totalBytes, totalBytes, storeByte_t, storeByte_offset, compressFull_t, compressFull_offset, hf]
    rfl
  · rw [absorb_of_not_full hf, totalBytes, totalBytes, storeByte_t, storeByte_offset]
    bv_omega

theorem totalBytes_absorbAll (xs : List Byte) : ∀ {b : Block}, b.offset.toNat ≤ 64 →
    totalBytes (absorbAll b xs) = totalBytes b + BitVec.ofNat 64 xs.length := by
  induction xs with
  | nil => exact fun {b} _ => (BitVec.add_zero (totalBytes b)).symm
  | cons x xs ih =>
    intro b h
    obtain ⟨-, hoff⟩ := absorb_offset h x
    rw [absorbAll_cons, ih hoff, totalBytes_absorb h, List.length_cons, BitVec.ofNat_add, BitVec.add_assoc,
      BitVec.add_comm 1#64]

theorem totalBytes_writeBlock (n : BitVec 3) (w : Word) {b : Block} (h : b.offset.toNat ≤ 64) :
    totalBytes (writeBlock n w b) = totalBytes b + n.setWidth 64 := by
  have hcount := totalBytes_absorbAll (streamBytes n w) h
  rwa [streamBytes_length, BitVec.ofNat_toNat] at hcount

/-- Settles O37: ContextInit starts the count at the length of the pending key block, and each byte of a WRITE adds 1. -/
theorem totalBytesCountsTheStream : Obligations.TotalBytesCountsTheStream := by
  refine ⟨fun nn kk s hnn hnn' hkk => ?init, fun n s hn hc ho => ?write⟩
  case init =>
    have ok : initLengthsOk nn kk = true := (initLengthsOk_iff nn kk).2 ⟨hnn, hnn', hkk⟩
    exact ⟨_, (exec_init_ok ok s).trans (succeed_eq _ s), totalBytes_contextInit (latchParameters nn kk s.toBlock)⟩
  case write => exact ⟨_, exec_write_next hn hc, totalBytes_writeBlock n s.wdata ho⟩

end Sys2Proof.Machine

/-! PROOFS. Reset (44_reset.md): RESET starts the context again from the parameters it holds, and since no command but INIT
changes those, it is back at the state INIT left. -/

namespace Sys2Proof.Machine

/-- RESET with a context: ContextInit, and the outcome is OK (44_reset.md R190). -/
theorem exec_reset_next {s : State} (hc : s.configured = true) :
    exec .reset s = .next (s.answer (contextInit s.toBlock).recordOk (statusWord (contextInit s.toBlock).recordOk)) :=
  (exec_reset_ok hc).trans (succeed_eq _ s)

theorem contextInit_recordOk_sameParameters (b : Block) : (contextInit b).recordOk.SameParameters b := ⟨rfl, rfl, rfl, rfl⟩

/-- Settles O19: the block after RESET is ContextInit's, from the parameters as they stand. -/
theorem resetRestartsTheContext : Obligations.ResetRestartsTheContext := fun s hc =>
  ⟨_, exec_reset_next hc, contextInit_recordOk_sameParameters s.toBlock, rfl, initialChaining_zero s.nn s.kk,
    fun _ => initialChaining_of_ne_zero s.nn s.kk, rfl, contextInit_no_key, contextInit_key,
    fun _ => Vector.getElem_replicate _, rfl, rfl, rfl, s.answer_returned _ _⟩

/-! ## RESET and the INIT before it -/

/-- An INIT that leaves a context was in range, and ContextInit ran (41_construct.md R133, R134). -/
theorem exec_init_toBlock_of_configured {nn kk : BitVec 6} {s t : State} (h : exec (.init nn kk) s = .next t)
    (ht : t.configured = true) : t.toBlock = (contextInit (latchParameters nn kk s.toBlock)).recordOk := by
  cases hok : initLengthsOk nn kk with
  | true => exact exec_toBlock_of_succeed h (exec_init_ok hok s)
  | false => simp [exec_toBlock_of_raiseError h (exec_init_fail hok s)] at ht

/-- The parameters stand over a run with no INIT (10_state.md R23). -/
theorem runCommands_sameParameters {cs : List (Instr × Word)} {s u : State}
    (hcs : ∀ c ∈ cs, ∀ nn kk, c.1 ≠ .init nn kk) (hrun : runCommands cs s = .next u) : u.toBlock.SameParameters s.toBlock :=
  runCommands_keeps (P := fun b => b.SameParameters s.toBlock) (admitted := fun i => ∀ nn kk, i ≠ .init nn kk)
    (fun heff hi hp => (heff.sameParameters hi).trans hp) cs hcs hrun ⟨rfl, rfl, rfl, rfl⟩

/-- After RESET the stream is where the last ContextInit started it, if the parameters still stand (44_reset.md R191). -/
theorem contextInit_sameStream_of_sameParameters {a b : Block} (h : a.SameParameters (contextInit b).recordOk) :
    (contextInit a).recordOk.SameStream (contextInit b).recordOk := by
  obtain ⟨hh, ht, hbuf, hoff⟩ := contextInit_sameStream (b := b) h.nn h.kk h.ckey
  exact ⟨hh, ht, hbuf, hoff⟩

/-- The same streaming commands from the same stream and parameters lead to the same digest, whatever else the blocks hold. -/
theorem exec_sum_after_same_commands {s t : State} (ht : t.configured = true) (hstream : s.toBlock.SameStream t.toBlock)
    (hparams : s.toBlock.SameParameters t.toBlock) {ws : List (Instr × Word)} (hws : ∀ w ∈ ws, streaming w.1 = true) :
    ∃ u v u' v', runCommands ws s = .next u ∧ runCommands ws t = .next v ∧ exec .sum u = .next u' ∧
      exec .sum v = .next v' ∧ u'.digest = v'.digest := by
  have hs : s.configured = true := hparams.configured.trans ht
  obtain ⟨u, hrunU, hstreamU, hparamsU⟩ := runCommands_absorbs ws hs hws
  obtain ⟨v, hrunV, hstreamV, hparamsV⟩ := runCommands_absorbs ws ht hws
  obtain ⟨u', hsumU, hdigestU⟩ := exec_sum_digest (hparamsU.configured.trans hs)
  obtain ⟨v', hsumV, hdigestV⟩ := exec_sum_digest (hparamsV.configured.trans ht)
  have hsame : u.toBlock.SameStream v.toBlock := hstreamU.trans ((absorbAll_sameStream hstream _).trans hstreamV.symm)
  have hnn : u.nn = v.nn := (hparamsU.trans hparams).nn.trans hparamsV.nn.symm
  refine ⟨u, v, u', v', hrunU, hrunV, hsumU, hsumV, ?_⟩
  calc u'.digest = streamDigest u.toBlock := hdigestU
    _ = streamDigest v.toBlock := streamDigest_congr hsame hnn
    _ = v'.digest := hdigestV.symm

/-- Settles O43: the run keeps the parameters, ContextInit depends on them alone, and the commands after it on the stream and
the parameters. -/
theorem resetEqualsFreshInit : Obligations.ResetEqualsFreshInit := by
  intro nn kk s fresh used cs hinit hfresh hcs hrun
  have hblock := exec_init_toBlock_of_configured hinit hfresh
  have hused : used.toBlock.SameParameters fresh.toBlock := runCommands_sameParameters hcs hrun
  have hstream : (contextInit used.toBlock).recordOk.SameStream fresh.toBlock := by
    rw [hblock] at hused ⊢
    exact contextInit_sameStream_of_sameParameters hused
  have hdigest : (contextInit used.toBlock).recordOk.SameDigest fresh.toBlock := hblock ▸ ⟨rfl, rfl⟩
  have hparams : (contextInit used.toBlock).recordOk.SameParameters fresh.toBlock :=
    (contextInit_recordOk_sameParameters used.toBlock).trans hused
  exact ⟨_, exec_reset_next (hused.configured.trans hfresh), hstream, hdigest, hparams,
    fun _ => exec_sum_after_same_commands hfresh hstream hparams⟩

end Sys2Proof.Machine

/-! PROOFS. READ (45_read.md): which register an address returns; every other answer is STATUS as it is after the transaction;
and an answer depends on what READ can show alone. -/

namespace Sys2Proof.Machine

/-! ## READ -/

theorem readRegisterAt_digest (i : Fin 8) : readRegisterAt (BitVec.ofNat 8 (0x10 + i.val)) = some (.digest i) := by
  revert i
  decide

theorem readRegisterAt_eq_none_iff (addr : BitVec 8) :
    readRegisterAt addr = none ↔ ¬ (addr.toNat = 0x00 ∨ addr.toNat = 0x01 ∨ (0x10 ≤ addr.toNat ∧ addr.toNat ≤ 0x17)) := by
  rw [← readAddressOk_iff, ← readRegisterAt_isSome, Option.not_isSome_iff_eq_none]

/-- A READ of a register returns it and leaves the block as it was (45_read.md R200). -/
theorem exec_read_returns {addr : BitVec 8} {r : ReadRegister} (hr : readRegisterAt addr = some r) (s : State) :
    ∃ t, exec (.read addr) s = .next t ∧ t.toBlock = s.toBlock ∧ Returned s t (readRegister s.toBlock r) :=
  ⟨_, exec_read_some hr s, rfl, s.answer_returned _ _⟩

/-- Settles O20: each defined address names its register, and the other addresses name none. -/
theorem readReturnsTheRegister : Obligations.ReadReturnsTheRegister := fun s =>
  ⟨exec_read_returns (r := .status) rfl s, exec_read_returns (r := .config) rfl s,
    fun i => exec_read_returns (readRegisterAt_digest i) s, fun addr haddr =>
      ⟨_, (exec_read_none ((readRegisterAt_eq_none_iff addr).2 haddr) s).trans (raiseError_eq _ _ s), rfl, rfl,
        recordError_sameButErrorRecord _ _, s.answer_returned _ _⟩⟩

/-! ## The answer of a transaction that is no READ -/

/-- Only a READ returns anything but STATUS (45_read.md R202). -/
theorem CommandEffect.word_eq_status {s : State} {i : Instr} {b : Block} {w : Word} (h : CommandEffect s i b w)
    (hi : ¬ ∃ addr, i = .read addr) : w = statusWord b := by
  cases h with
  | read addr => exact absurd ⟨addr, rfl⟩ hi
  | _ => rfl

/-- A word that decodes to no READ, legal or ILLEGAL, is answered with STATUS of the block it leaves (45_read.md R202). -/
theorem runCommand_answers_status {cmd : Word} (hcmd : ¬ ∃ addr, decode cmd = .ok (.read addr)) (s : State) :
    ∃ b, runCommand cmd s = .next (s.answer b (statusWord b)) := by
  cases hd : decode cmd with
  | error e => exact ⟨_, (runCommand_of_error hd s).trans (raiseError_eq _ _ s)⟩
  | ok i =>
    obtain ⟨b, w, hexec, heff⟩ := exec_effect i s
    have hw : w = statusWord b := heff.word_eq_status fun ⟨addr, hread⟩ => hcmd ⟨addr, hread ▸ hd⟩
    exact ⟨b, hw ▸ (runCommand_of_ok hd s).trans hexec⟩

/-- Settles O27: the step's one answer is STATUS of the block the transaction leaves. -/
theorem resultWordIsStatusAfter : Obligations.ResultWordIsStatusAfter := by
  intro s t cmd wdata rest hq h hcmd
  obtain ⟨b, hrun⟩ := runCommand_answers_status hcmd (s.accept wdata rest)
  rw [step_of_transaction hq, hrun] at h
  injection h with h
  exact h ▸ rfl

/-! ## What an answer depends on -/

/-- STATUS after a success: ERR is 0 whatever it was (60_exceptions.md R213). -/
theorem statusWord_recordOk_congr {a b : Block} (hc : a.configured = b.configured) (hd : a.digestValid = b.digestValid)
    (hs : a.errSticky = b.errSticky) : statusWord a.recordOk = statusWord b.recordOk := by
  simp [statusWord, hc, hd, hs]

/-- STATUS after an error: the whole error record is new (60_exceptions.md R213). -/
theorem statusWord_recordError_congr {a b : Block} (hc : a.configured = b.configured) (hd : a.digestValid = b.digestValid)
    (e : ErrorKind) : statusWord (a.recordError e) = statusWord (b.recordError e) := by
  simp [statusWord, hc, hd]

theorem readRegister_congr {a b : Block} (h : a.SameVisible b) (r : ReadRegister) : readRegister a r = readRegister b r := by
  obtain ⟨hc, hnn, hkk, ⟨hdig, hdv⟩, herr, hsticky⟩ := h
  cases r with
  | status => simp [readRegister, statusWord, hc, hdv, herr, hsticky]
  | config => simp [readRegister, configWord, hnn, hkk]
  | digest i => simp [readRegister, hdig]

theorem statusWord_writeBlock_congr {a b : Block} (h : a.SameVisible b) (n : BitVec 3) (v w : Word) :
    statusWord (writeBlock n v a).recordOk = statusWord (writeBlock n w b).recordOk := by
  obtain ⟨hca, -, -, -, -, -, hda, -, hsa⟩ := writeBlock_frame n v a
  obtain ⟨hcb, -, -, -, -, -, hdb, -, hsb⟩ := writeBlock_frame n w b
  apply statusWord_recordOk_congr
  · rw [hca, hcb, h.configured]
  · rw [hda, hdb, h.digest.digestValid]
  · rw [hsa, hsb, h.errSticky]

/-- A command passes the same checks on two blocks that agree on what READ can show, and so returns the same word
(45_read.md R201). -/
theorem CommandEffect.same_word {s t : State} {i : Instr} {b : Block} {w : Word} (h : CommandEffect s i b w)
    (hv : s.toBlock.SameVisible t.toBlock) : ∃ b' w', CommandEffect t i b' w' ∧ w = w' := by
  have hconf : t.configured = s.configured := hv.configured.symm
  have hfails (e : ErrorKind) : statusWord (s.toBlock.recordError e) = statusWord (t.toBlock.recordError e) :=
    statusWord_recordError_congr hv.configured hv.digest.digestValid e
  cases h with
  | keyw idx =>
    exact ⟨_, _, .keyw idx, statusWord_recordOk_congr hv.configured hv.digest.digestValid hv.errSticky⟩
  | init nn kk ok => exact ⟨_, _, .init nn kk ok, statusWord_recordOk_congr rfl rfl hv.errSticky⟩
  | initFails nn kk bad => exact ⟨_, _, .initFails nn kk bad, statusWord_recordError_congr rfl rfl _⟩
  | write n hn hc => exact ⟨_, _, .write n hn (hconf.trans hc), statusWord_writeBlock_congr hv n _ _⟩
  | sum hc => exact ⟨_, _, .sum (hconf.trans hc), statusWord_recordOk_congr hv.configured rfl hv.errSticky⟩
  | reset hc => exact ⟨_, _, .reset (hconf.trans hc), statusWord_recordOk_congr hv.configured rfl hv.errSticky⟩
  | read addr r hr => exact ⟨_, _, .read addr r hr, readRegister_congr hv r⟩
  | writeUnconfigured n hn hc => exact ⟨_, _, .writeUnconfigured n hn (hconf.trans hc), hfails _⟩
  | sumUnconfigured hc => exact ⟨_, _, .sumUnconfigured (hconf.trans hc), hfails _⟩
  | resetUnconfigured hc => exact ⟨_, _, .resetUnconfigured (hconf.trans hc), hfails _⟩
  | writeIllFormed n hn => exact ⟨_, _, .writeIllFormed n hn, hfails _⟩
  | readIllFormed addr hr => exact ⟨_, _, .readIllFormed addr hr, hfails _⟩

/-- One answer `w` to the command word on both blocks; what they leave behind it may differ (45_read.md R201). -/
theorem runCommand_same_word (cmd : Word) {s t : State} (hv : s.toBlock.SameVisible t.toBlock) :
    ∃ b b' w, runCommand cmd s = .next (s.answer b w) ∧ runCommand cmd t = .next (t.answer b' w) := by
  cases hd : decode cmd with
  | error e =>
    have hw := statusWord_recordError_congr hv.configured hv.digest.digestValid .illegalCommand
    exact ⟨_, _, _, (runCommand_of_error hd s).trans (raiseError_eq _ _ s),
      hw ▸ (runCommand_of_error hd t).trans (raiseError_eq _ _ t)⟩
  | ok i =>
    obtain ⟨b, w, hexec, heff⟩ := exec_effect i s
    obtain ⟨b', _, heff', rfl⟩ := heff.same_word hv
    exact ⟨b, b', w, (runCommand_of_ok hd s).trans hexec, (runCommand_of_ok hd t).trans heff'.exec_eq⟩

/-- Settles O31: both steps add the one answer to the same results. -/
theorem hiddenElementsAreNeverReturned : Obligations.HiddenElementsAreNeverReturned := by
  intro a b a' b' cmd wdata rest hv hres hqa hqb ha hb
  obtain ⟨_, _, w, hruna, hrunb⟩ := runCommand_same_word cmd (s := a.accept wdata rest) (t := b.accept wdata rest) hv
  rw [step_of_transaction hqa, hruna] at ha
  rw [step_of_transaction hqb, hrunb] at hb
  injection ha with ha
  injection hb with hb
  calc a'.results = a.results ++ [w] := ha ▸ rfl
    _ = b.results ++ [w] := by rw [hres]
    _ = b'.results := hb ▸ rfl

end Sys2Proof.Machine

/-! PROOFS. Errors (60_exceptions.md): the one code of each transaction; which words are ILLEGAL; what a failing transaction
leaves alone; and who sets and clears ERR_STICKY. -/

namespace Sys2Proof.Machine

/-! ## A step with nothing to do, and a step that takes a transaction -/

/-- Settles O4: `step` has an arm of its own for the empty inbox. -/
theorem idleBlockHoldsItsState : Obligations.IdleBlockHoldsItsState := fun _ => step_of_empty

theorem step_of_illegal {s : State} {cmd wdata : Word} {rest : List HostEvent} {e : DecodeError}
    (hq : s.inbox = .transaction cmd wdata :: rest) (hd : decode cmd = .error e) :
    step s = .next ((s.accept wdata rest).answer (s.toBlock.recordError .illegalCommand)
      (statusWord (s.toBlock.recordError .illegalCommand))) := by
  rw [step_of_transaction hq, runCommand_of_error hd]
  exact raiseError_eq _ _ _

theorem step_illegal_toBlock {s t : State} {cmd wdata : Word} {rest : List HostEvent} {e : DecodeError}
    (hq : s.inbox = .transaction cmd wdata :: rest) (hd : decode cmd = .error e) (h : step s = .next t) :
    t.toBlock = s.toBlock.recordError .illegalCommand := by
  rw [step_of_illegal hq hd] at h
  injection h with h
  exact h ▸ rfl

theorem step_decoded_effect {s t : State} {cmd wdata : Word} {rest : List HostEvent} {i : Instr}
    (hq : s.inbox = .transaction cmd wdata :: rest) (hd : decode cmd = .ok i) (h : step s = .next t) :
    ∃ w, CommandEffect (s.accept wdata rest) i t.toBlock w := by
  rw [step_of_transaction hq, runCommand_of_ok hd] at h
  obtain ⟨_, w, rfl, heff⟩ := exec_inv h
  exact ⟨w, heff⟩

/-! ## The one code of each transaction -/

/-- ERR after a transaction on the block `b` whose word decodes to `d` (60_exceptions.md R215); READ overwrites nothing. -/
def errAfter (b : Block) : Except DecodeError Instr → BitVec 4
  | .error _ => ErrorKind.illegalCommand.code
  | .ok (.init nn kk) => if initLengthsOk nn kk then okCode else ErrorKind.invalidParameter.code
  | .ok (.keyw _) => okCode
  | .ok (.write _) | .ok .sum | .ok .reset => if b.configured then okCode else ErrorKind.notConfigured.code
  | .ok (.read _) => b.err

theorem CommandEffect.err_eq {s : State} {cmd : Word} {i : Instr} {b : Block} {w : Word} (h : CommandEffect s i b w)
    (hd : decode cmd = .ok i) : b.err = errAfter s.toBlock (.ok i) := by
  cases h with
  | keyw | read => rfl
  | init _ _ ok => simp [errAfter, ok, okCode]
  | initFails _ _ bad => simp [errAfter, bad]
  | write _ _ hc | sum hc | reset hc => simp [errAfter, hc, okCode]
  | writeUnconfigured _ _ hc | sumUnconfigured hc | resetUnconfigured hc => simp [errAfter, hc]
  | writeIllFormed _ hn => exact absurd (write_of_decode hd) hn
  | readIllFormed _ hr => exact absurd hr (read_of_decode hd)

theorem step_err {s t : State} {cmd wdata : Word} {rest : List HostEvent}
    (hq : s.inbox = .transaction cmd wdata :: rest) (h : step s = .next t) : t.err = errAfter s.toBlock (decode cmd) := by
  cases hd : decode cmd with
  | error e => exact congrArg Block.err (step_illegal_toBlock hq hd h)
  | ok i =>
    obtain ⟨_, heff⟩ := step_decoded_effect hq hd h
    exact heff.err_eq hd

/-- Settles O24: `errAfter`, one clause for each kind of command. -/
theorem errorPriority : Obligations.ErrorPriority := by
  intro s t cmd wdata rest hq h
  rw [step_err hq h]
  refine ⟨fun e hd => ?illegal, fun i hd hi => ?context, fun nn kk hd => ?init, fun idx hd => ?keyw,
    fun addr hd => ?read⟩ <;> rw [hd]
  case illegal | keyw | read => rfl
  case context => obtain rfl | rfl | ⟨n, rfl⟩ := hi <;> rfl
  case init => simp only [← initLengthsOk_iff]; rfl

/-! ## IllegalCommand -/

theorem opcodeOf_toNat (cmd : Word) : (opcodeOf cmd).toNat = cmd.toNat % 16 := by
  rw [opcodeOf, BitVec.extractLsb'_toNat, Nat.shiftRight_zero]

theorem exists_error_iff_ne_ok {ε α : Type} {x : Except ε α} : (∃ e, x = .error e) ↔ ∀ a, x ≠ .ok a := by
  cases x <;> simp

/-- The four cases of 60_exceptions.md R211, in the decoder's own terms. -/
theorem decode_fails_iff (cmd : Word) : (∃ e, decode cmd = .error e) ↔
    ((opcodeOf cmd).toNat = 0x0 ∨ 0x7 ≤ (opcodeOf cmd).toNat) ∨
    (((opcodeOf cmd).toNat = 0x1 ∧ cmd &&& reservedP ≠ 0) ∨
      (((opcodeOf cmd).toNat = 0x2 ∨ (opcodeOf cmd).toNat = 0x3) ∧ cmd &&& reservedI ≠ 0) ∨
      (((opcodeOf cmd).toNat = 0x4 ∨ (opcodeOf cmd).toNat = 0x5) ∧ cmd &&& reservedN ≠ 0) ∨
      ((opcodeOf cmd).toNat = 0x6 ∧ cmd &&& reservedA ≠ 0)) ∨
    ((opcodeOf cmd).toNat = 0x3 ∧ ¬ writeCountOk (countField cmd) = true) ∨
    ((opcodeOf cmd).toNat = 0x6 ∧ ¬ readAddressOk (addrField cmd) = true) := by
  rw [exists_error_iff_ne_ok, decode]
  split
  case h_1 hopc => simp [hopc, decodeInit_eq_ok]
  case h_2 hopc => simp [hopc, decodeKeyw_eq_ok]
  case h_3 hopc => by_cases hres : cmd &&& reservedI = 0#32 <;> simp [hopc, hres, decodeWrite_eq_ok]
  case h_4 hopc => simp [hopc, decodeSum_eq_ok]
  case h_5 hopc => simp [hopc, decodeReset_eq_ok]
  case h_6 hopc => by_cases hres : cmd &&& reservedA = 0#32 <;> simp [hopc, hres, decodeRead_eq_ok]
  case h_7 h1 h2 h3 h4 h5 h6 =>
    rw [imp_false] at h1 h2 h3 h4 h5 h6
    have hopc : (opcodeOf cmd).toNat = 0x0 ∨ 0x7 ≤ (opcodeOf cmd).toNat := by omega
    simp [hopc]

/-- A command that decodes raises other errors only, and READ lets an ERR of 2 stand. -/
theorem errAfter_ok_eq_illegalCommand {b : Block} {i : Instr} (h : errAfter b (.ok i) = 2) :
    b.err = 2 ∧ ∃ addr, i = .read addr := by
  cases i with
  | read addr => exact ⟨h, addr, rfl⟩
  | keyw => cases h
  | init nn kk => cases hok : initLengthsOk nn kk <;> simp [errAfter, hok, okCode] at h
  | write | sum | reset => cases hc : b.configured <;> simp [errAfter, hc, okCode] at h

/-- Settles O11: R211's cases are the decoder's error branches, and `errAfter` of a decoded command is never 2 of its own. -/
theorem illegalCommandExactlyWhen : Obligations.IllegalCommandExactlyWhen := by
  refine ⟨fun cmd => ?cases, fun s cmd wdata rest e hq hd => ?illegal, fun s t cmd wdata rest i hq hd h herr => ?decoded⟩
  case cases =>
    have hiff := decode_fails_iff cmd
    rwa [writeCountOk_iff, readAddressOk_iff, opcodeOf_toNat, countField_toNat, addrField_toNat, Nat.not_le] at hiff
  case illegal =>
    exact ⟨_, step_of_illegal hq hd, rfl, rfl, recordError_sameButErrorRecord _ _, rfl, rfl⟩
  case decoded =>
    rw [step_err hq h, hd] at herr
    exact errAfter_ok_eq_illegalCommand herr

/-! ## NotConfigured -/

/-- READ leaves ERR as it stood, or, past the decoder, raises IllegalCommand (45_read.md R200). -/
theorem CommandEffect.read_err {s : State} {addr : BitVec 8} {b : Block} {w : Word}
    (h : CommandEffect s (.read addr) b w) : b.err = s.err ∨ b.err = 2 := by
  cases h with
  | read => exact .inl rfl
  | readIllFormed => exact .inr rfl

/-- Settles O23: the configuration check is the three commands' own, and O30's clause on CONFIGURED is the way out. -/
theorem notConfiguredWithoutContext : Obligations.NotConfiguredWithoutContext := by
  refine ⟨fun i s hs hi => ?fails, fun i s t hi h hs => ?never, rfl, fun nn kk s t h herr => ?initFailed,
    fun s t h => (whoSetsAndClearsTheFlags s t h).1⟩
  case fails =>
    exact ⟨_, (exec_without_context hs hi).trans (raiseError_eq _ _ s), rfl, rfl, recordError_sameButErrorRecord _ _,
      s.answer_returned _ _⟩
  case never =>
    obtain ⟨b, w, rfl, heff⟩ := exec_inv h
    obtain ⟨idx, rfl⟩ | ⟨nn, kk, rfl⟩ | ⟨addr, rfl⟩ := hi
    · cases heff
      simp
    · obtain ⟨-, herr⟩ | ⟨-, herr⟩ := heff.init_outcome <;> simp [herr]
    · obtain herr | herr := heff.read_err
      · exact fun h3 => hs (herr.symm.trans h3)
      · simp [herr]
  case initFailed =>
    obtain ⟨b, w, rfl, heff⟩ := exec_inv h
    obtain ⟨-, hok⟩ | ⟨hconf, -⟩ := heff.init_outcome
    · exact absurd hok herr
    · exact hconf

/-! ## The error record and its precision -/

/-- How a transaction on the block `a` whose word decodes to `d` leaves the block `b` (60_exceptions.md R213). -/
inductive TransactionEnds (a : Block) (d : Except DecodeError Instr) (b : Block) : Prop where
  | read (addr : BitVec 8) (hd : d = .ok (.read addr)) (kept : b = a)
  | success (hd : ¬ ∃ addr, d = .ok (.read addr)) (err : b.err = 0) (sticky : b.errSticky = a.errSticky)
  | failure (hd : ¬ ∃ addr, d = .ok (.read addr)) (err : b.err = 2 ∨ b.err = 3) (sticky : b.errSticky = true)
      (kept : b.SameButErrorRecord a)
  | initFails (nn kk : BitVec 6) (hd : d = .ok (.init nn kk)) (err : b.err = 1) (sticky : b.errSticky = true)
      (kept : b.SameButErrorRecord (initFail a))

theorem CommandEffect.ends {s : State} {cmd : Word} {i : Instr} {b : Block} {w : Word} (h : CommandEffect s i b w)
    (hd : decode cmd = .ok i) : TransactionEnds s.toBlock (.ok i) b := by
  cases h with
  | read addr => exact .read addr rfl rfl
  | keyw | init | sum | reset => exact .success (by simp) rfl rfl
  | write n =>
    obtain ⟨-, -, -, -, -, -, -, -, hsticky⟩ := writeBlock_frame n s.wdata s.toBlock
    exact .success (by simp) rfl hsticky
  | initFails nn kk => exact .initFails nn kk rfl rfl rfl (recordError_sameButErrorRecord _ _)
  | writeUnconfigured | sumUnconfigured | resetUnconfigured =>
    exact .failure (by simp) (.inr rfl) rfl (recordError_sameButErrorRecord _ _)
  | writeIllFormed => exact .failure (by simp) (.inl rfl) rfl (recordError_sameButErrorRecord _ _)
  | readIllFormed _ hr => exact absurd hr (read_of_decode hd)

theorem step_ends {s t : State} {cmd wdata : Word} {rest : List HostEvent}
    (hq : s.inbox = .transaction cmd wdata :: rest) (h : step s = .next t) :
    TransactionEnds s.toBlock (decode cmd) t.toBlock := by
  cases hd : decode cmd with
  | error e =>
    rw [step_illegal_toBlock hq hd h]
    exact .failure (by simp) (.inl rfl) rfl (recordError_sameButErrorRecord _ _)
  | ok i =>
    obtain ⟨_, heff⟩ := step_decoded_effect hq hd h
    exact heff.ends hd

/-- What O26 says of ERR_STICKY, whatever the transaction's code. -/
theorem TransactionEnds.errSticky {a b : Block} {d : Except DecodeError Instr} (h : TransactionEnds a d b)
    (hd : ¬ ∃ addr, d = .ok (.read addr)) :
    (b.err = 0 ∧ b.errSticky = a.errSticky) ∨ (b.err ≠ 0 ∧ b.errSticky = true) := by
  cases h with
  | read addr hread => exact absurd ⟨addr, hread⟩ hd
  | success _ herr hsticky => exact .inl ⟨herr, hsticky⟩
  | failure _ herr hsticky => exact .inr ⟨by obtain herr | herr := herr <;> simp [herr], hsticky⟩
  | initFails _ _ _ herr hsticky => exact .inr ⟨by simp [herr], hsticky⟩

theorem TransactionEnds.eq_of_read {a b : Block} {d : Except DecodeError Instr} (h : TransactionEnds a d b)
    (hd : ∃ addr, d = .ok (.read addr)) : b = a := by
  cases h with
  | read _ _ kept => exact kept
  | success hnot | failure hnot => exact absurd hd hnot
  | initFails _ _ hinit => simp [hinit] at hd

/-- A transaction that fails names its error, and keeps all but the context that a failed INIT discards. -/
theorem TransactionEnds.precise {a b : Block} {d : Except DecodeError Instr} (h : TransactionEnds a d b)
    (hd : ¬ ∃ addr, d = .ok (.read addr)) (hfail : b.err ≠ 0) :
    ((b.err = 2 ∨ b.err = 3) ∧ b.SameButErrorRecord a) ∨
      (b.err = 1 ∧ (∃ nn kk, d = .ok (.init nn kk)) ∧ b.SameButErrorRecord (initFail a)) := by
  cases h with
  | read addr hread => exact absurd ⟨addr, hread⟩ hd
  | success _ herr => exact absurd herr hfail
  | failure _ herr _ kept => exact .inl ⟨herr, kept⟩
  | initFails nn kk hinit herr _ kept => exact .inr ⟨herr, ⟨nn, kk, hinit⟩, kept⟩

/-- Settles O25: how the transaction ended, and with it O27's result word. -/
theorem failedTransactionIsPrecise : Obligations.FailedTransactionIsPrecise := by
  intro s t cmd wdata rest hq h
  have hends := step_ends hq h
  refine ⟨hends.eq_of_read, fun hd hok => ?success, fun hd hfail => ?failure⟩
  case success =>
    obtain ⟨-, hsticky⟩ | ⟨hfail, -⟩ := hends.errSticky hd
    · exact hsticky
    · exact absurd hok hfail
  case failure =>
    obtain ⟨hok, -⟩ | ⟨-, hsticky⟩ := hends.errSticky hd
    · exact absurd hok hfail
    · exact ⟨hsticky, resultWordIsStatusAfter s t cmd wdata rest hq h hd, hends.precise hd hfail⟩

/-! ## Who sets and clears ERR_STICKY -/

/-- No transaction clears ERR_STICKY (60_exceptions.md R214). -/
theorem TransactionEnds.keeps_errSticky {a b : Block} {d : Except DecodeError Instr} (h : TransactionEnds a d b)
    (ha : a.errSticky = true) : b.errSticky = true := by
  cases h with
  | read _ _ kept => exact kept ▸ ha
  | success _ _ hsticky => exact hsticky.trans ha
  | failure _ _ hsticky | initFails _ _ _ _ hsticky => exact hsticky

theorem step_clears_errSticky {s t : State} (h : step s = .next t) (hs : s.errSticky = true) (ht : t.errSticky = false) :
    ∃ rest, s.inbox = .hardwareReset :: rest := by
  obtain ⟨-, htb⟩ | ⟨rest, hq, -⟩ | ⟨_, _, _, _, hq, -⟩ | ⟨_, _, _, _, _, hq, -⟩ := step_effect h
  · simp [htb, hs] at ht
  · exact ⟨rest, hq⟩
  all_goals simp [(step_ends hq h).keeps_errSticky hs] at ht

theorem step_hardwareReset_errSticky {s t : State} {rest : List HostEvent} (hq : s.inbox = .hardwareReset :: rest)
    (h : step s = .next t) : t.errSticky = false := by
  rw [step_of_hardwareReset hq] at h
  injection h with h
  exact h ▸ rfl

/-- Settles O26: no transaction clears ERR_STICKY, and O24 gives the codes. -/
theorem onlyHardwareResetClearsSticky : Obligations.OnlyHardwareResetClearsSticky := by
  refine fun s t h => ⟨step_clears_errSticky h, fun rest hq => step_hardwareReset_errSticky hq h,
    fun cmd wdata rest hq => ?_⟩
  have hends := step_ends hq h
  obtain ⟨hillegal, hcontext, hinit, hkeyw, -⟩ := errorPriority s t cmd wdata rest hq h
  refine ⟨fun hd => ?_, hillegal, hcontext, hinit, hkeyw, hends.errSticky⟩
  have hkept : t.toBlock = s.toBlock := hends.eq_of_read hd
  exact ⟨congrArg Block.err hkept, congrArg Block.errSticky hkept⟩

end Sys2Proof.Machine

/-! PROOFS. Reset and hazards (70_reset_and_hazards.md): hardware reset as an event; why a KEYW reaches nothing before the
next INIT; and two claims beside them, the commands no word decodes to and the source's known answer KAT-256. -/

namespace Sys2Proof.Machine

/-! ## Hardware reset -/

/-- Settles O2: the step that takes the event is `hardwareReset`, and it touches the block alone. -/
theorem hardwareResetEventResetsEveryElement : Obligations.HardwareResetEventResetsEveryElement :=
  fun _ _ hq => ⟨_, step_of_hardwareReset hq, rfl, rfl, rfl⟩

/-! ## A KEYW before the next INIT -/

/-- The block with the staging key and the error record blanked. What is left, the context and DIGEST, is all that a command
other than INIT computes with. -/
def Block.context (b : Block) : Block := { b with kstage := Block.reset.kstage, err := 0, errSticky := false }

/-! Blanking comes to the same before and after an operation on the block: none but INIT's reads what is blanked. -/

theorem context_recordOk (b : Block) : b.recordOk.context = b.context := rfl

theorem context_recordError (b : Block) (e : ErrorKind) : (b.recordError e).context = b.context := rfl

theorem context_keywBlock (idx : BitVec 3) (w : Word) (b : Block) : (keywBlock idx w b).context = b.context := rfl

theorem context_sumBlock (b : Block) : (sumBlock b).context = sumBlock b.context := rfl

theorem context_contextInit (b : Block) : (contextInit b).context = contextInit b.context := rfl

theorem context_absorb (b : Block) (x : Byte) : (absorb b x).context = absorb b.context x := by
  by_cases hf : b.offset = 64
  · rw [absorb_of_full hf, absorb_of_full (b := b.context) hf]
    rfl
  · rw [absorb_of_not_full hf, absorb_of_not_full (b := b.context) hf]
    rfl

theorem context_absorbAll (xs : List Byte) : ∀ b : Block, (absorbAll b xs).context = absorbAll b.context xs := by
  induction xs with
  | nil => exact fun _ => rfl
  | cons x xs ih =>
    intro b
    rw [absorbAll_cons, absorbAll_cons, ih, context_absorb]

theorem context_writeBlock (n : BitVec 3) (w : Word) (b : Block) :
    (writeBlock n w b).context = writeBlock n w b.context :=
  congrArg (clearDigestValidIfBytes n) (context_absorbAll (streamBytes n w) b)

/-! Blocks with one context agree in each of its elements. -/

theorem sameParameters_of_context {a b : Block} (h : a.context = b.context) : a.SameParameters b :=
  ⟨(congrArg Block.configured h :), (congrArg Block.nn h :), (congrArg Block.kk h :), (congrArg Block.ckey h :)⟩

theorem sameStream_of_context {a b : Block} (h : a.context = b.context) : a.SameStream b :=
  ⟨(congrArg Block.h h :), (congrArg Block.t h :), (congrArg Block.buf h :), (congrArg Block.offset h :)⟩

theorem sameDigest_of_context {a b : Block} (h : a.context = b.context) : a.SameDigest b :=
  ⟨(congrArg Block.digest h :), (congrArg Block.digestValid h :)⟩

/-- A command other than INIT passes the same checks on two blocks with one context, and leaves them with one context
(41_construct.md R131). -/
theorem CommandEffect.same_context {s t : State} {i : Instr} {b : Block} {r : Word} (h : CommandEffect s i b r)
    (hi : ∀ nn kk, i ≠ .init nn kk) (hctx : t.context = s.context) (hw : t.wdata = s.wdata) :
    ∃ b' r', CommandEffect t i b' r' ∧ b'.context = b.context := by
  have hconf : t.configured = s.configured := (sameParameters_of_context hctx).configured
  have hfails (e : ErrorKind) : (t.toBlock.recordError e).context = (s.toBlock.recordError e).context := by
    rw [context_recordError, context_recordError, hctx]
  cases h with
  | init nn kk | initFails nn kk => exact absurd rfl (hi nn kk)
  | keyw idx => exact ⟨_, _, .keyw idx, by simpa only [context_recordOk, context_keywBlock] using hctx⟩
  | write n hn hc =>
    exact ⟨_, _, .write n hn (hconf.trans hc), by simp only [context_recordOk, context_writeBlock, hctx, hw]⟩
  | sum hc => exact ⟨_, _, .sum (hconf.trans hc), by simp only [context_recordOk, context_sumBlock, hctx]⟩
  | reset hc => exact ⟨_, _, .reset (hconf.trans hc), by simp only [context_recordOk, context_contextInit, hctx]⟩
  | read addr r hr => exact ⟨_, _, .read addr r hr, hctx⟩
  | writeUnconfigured n hn hc => exact ⟨_, _, .writeUnconfigured n hn (hconf.trans hc), hfails _⟩
  | sumUnconfigured hc => exact ⟨_, _, .sumUnconfigured (hconf.trans hc), hfails _⟩
  | resetUnconfigured hc => exact ⟨_, _, .resetUnconfigured (hconf.trans hc), hfails _⟩
  | writeIllFormed n hn => exact ⟨_, _, .writeIllFormed n hn, hfails _⟩
  | readIllFormed addr hr => exact ⟨_, _, .readIllFormed addr hr, hfails _⟩

/-- Two runs of the same commands with no INIT, from two blocks with one context, complete and end with one context. -/
theorem runCommands_same_context : ∀ (cs : List (Instr × Word)) {s t : State},
    (∀ c ∈ cs, ∀ nn kk, c.1 ≠ .init nn kk) → t.context = s.context →
      ∃ u v, runCommands cs s = .next u ∧ runCommands cs t = .next v ∧ v.context = u.context := by
  intro cs
  induction cs with
  | nil => exact fun _ hctx => ⟨_, _, rfl, rfl, hctx⟩
  | cons c cs ih =>
    intro s t hcs hctx
    obtain ⟨hc, hrest⟩ := List.forall_mem_cons.1 hcs
    obtain ⟨b, r, hexec, heff⟩ := exec_effect c.1 { s with wdata := c.2 }
    obtain ⟨b', r', heff', hctx'⟩ := heff.same_context (t := { t with wdata := c.2 }) hc hctx rfl
    rw [runCommands_cons, runCommands_cons, hexec, heff'.exec_eq]
    exact ih hrest hctx'

/-- Settles O34: the KEYW leaves the context, and the run after it computes with nothing else. -/
theorem keywDoesNotReachTheContext : Obligations.KeywDoesNotReachTheContext := by
  intro idx s t cs hkeyw hcs
  have hctx : t.context = s.context := by
    rw [exec_toBlock_of_succeed hkeyw (exec_keyw idx s), context_recordOk, context_keywBlock]
  obtain ⟨u, v, hrunS, hrunT, hctx'⟩ := runCommands_same_context cs hcs hctx
  exact ⟨u, v, hrunS, hrunT, sameParameters_of_context hctx', sameStream_of_context hctx', sameDigest_of_context hctx'⟩

/-! ## Commands no word decodes to -/

/-- An ill-formed term is a WRITE of too many bytes or a READ of no register, and both raise IllegalCommand (42_write.md and
45_read.md, Errors). -/
theorem exec_illFormed {i : Instr} (hi : i.wellFormed = false) (s : State) :
    exec i s = raiseError .illegalCommand s.toBlock s := by
  cases i with
  | init | keyw | sum | reset => cases hi
  | write n =>
    have hn : ¬ n.toNat ≤ 4 := fun hle => ne_true_of_eq_false hi ((writeCountOk_iff n).2 hle)
    exact exec_write_ill hn s
  | read addr =>
    have hsome : (readRegisterAt addr).isSome = false := (readRegisterAt_isSome addr).trans hi
    exact exec_read_none (Option.not_isSome_iff_eq_none.1 (ne_true_of_eq_false hsome)) s

/-- Settles O12: the error record is all that `raiseError` changes. -/
theorem illFormedCommandIsIllegal : Obligations.IllFormedCommandIsIllegal := fun _ s hi =>
  ⟨_, (exec_illFormed hi s).trans (raiseError_eq _ _ s), rfl, rfl, recordError_sameButErrorRecord _ _,
    s.answer_returned _ _⟩

/-! ## The known answer -/

/-- Settles O49: the kernel evaluates F on the one input (95_test_vectors.md section 1.1). -/
theorem knownAnswerOfTheKeyBlock : Obligations.KnownAnswerOfTheKeyBlock := by
  unfold Obligations.KnownAnswerOfTheKeyBlock
  decide +kernel

end Sys2Proof.Machine
